-- ==== Sys2Proof/Word.lean ====
section
/-! DEFINITION. The data width of the FPLL core (R5: `W = 32`) and complex values (R9). -/

namespace Sys2Proof

/-- A register, operand, result or buffer word (R5 `W`, R21, R50, R71). -/
abbrev Word := BitVec 32

/-- One byte of the little-endian byte mapping of a buffer (R53). -/
abbrev Byte := BitVec 8

/-- A complex value is a pair `(re, im)` (R9). -/
structure Cpx (α : Type) where
  re : α
  im : α
deriving DecidableEq, Repr

end Sys2Proof
end

