-- ==== Sys2Proof/Config.lean ====
section
/-! DEFINITION. The constants of the hardware (R5, R6, R27, R28, R29) and its open parameters (R5, R8):
free constants without a body, so that nothing can be proved about them but what holds whatever they are. -/

namespace Sys2Proof

namespace Config

/-- `ZERO`, `ONE`, `FOUR`, `TWO_PI`, `HALF_PI` of R6. -/
def zero : Word := 0x00000000#32
def one : Word := 0x3F800000#32
def four : Word := 0x40800000#32
def twoPi : Word := 0x40C90FDB#32
def halfPi : Word := 0x3FC90FDB#32

/-- `ALPHA_LOOP_DEFAULT` (R5, R27). -/
def alphaLoopDefault : Word := 0x3951B717#32

/-- `BETA_LOOP_DEFAULT` (R5, R27): computed from the default gain, not the literal 1e-8. -/
def betaLoopDefault : Word := 0x322BCC76#32

/-- `TIME_CONSTANT_DEFAULT` (R5, R29). -/
def timeConstantDefault : Word := 0x36A7C5AC#32

end Config

/-- The open parameters of R5 and R8. `atan2Approx` is the arctangent primitive on operands not both
zero, `atan2Zero sy sx` the value `ATAN2_ZERO` for the two zeros' sign bits, `freeNaN d` the sign and
fraction of the NaN that the `d`-th free choice draws (R6, U1), and `MAXN` is `cap + 1`, so that
`1 ≤ MAXN ≤ 65535` holds by type. -/
structure Params where
  sin : Word → Word
  cos : Word → Word
  exp : Word → Word
  atan2Approx : Word → Word → Word
  atan2Zero : Bool → Bool → Word
  freeNaN : Nat → BitVec 24
  cap : Fin 65535

/-- `MAXN`, the capacity of each buffer in complex samples (R5). -/
def Params.maxN (P : Params) : Nat := P.cap.val + 1

namespace Config

/-- `SIN` (R8): a pure function of its operand, otherwise free. -/
opaque sin : Word → Word

/-- `COS` (R8). -/
opaque cos : Word → Word

/-- `EXP` (R8). -/
opaque exp : Word → Word

/-- `ATAN2` on operands that are not both zero (R8): imaginary part first. -/
opaque atan2Approx : Word → Word → Word

/-- `ATAN2_ZERO(sy, sx)` (R5): the value of `ATAN2` on two zeros with these sign bits. -/
opaque atan2Zero : Bool → Bool → Word

/-- The free choice of a NaN (R6 "which NaN ... is not fixed: a model draws it"). -/
opaque freeNaN : Nat → BitVec 24

/-- `MAXN − 1` (R5: `OPEN`, `1 <= MAXN <= 65535`). -/
opaque cap : Fin 65535

/-- The parameters of the one machine that `exec` and `step` run. -/
def params : Params where
  sin := Config.sin
  cos := Config.cos
  exp := Config.exp
  atan2Approx := Config.atan2Approx
  atan2Zero := Config.atan2Zero
  freeNaN := Config.freeNaN
  cap := Config.cap

end Config

end Sys2Proof
end

