-- ==== Sys2Proof/Syntax.lean ====
section
/-! DEFINITION. The commands of the FPLL core (R74), one constructor per row of the opcode map, and the
ten register names (R21, R25). The real operands `a`, `b`, `c` are data on the operand ports, not part of
the encoding (R71), so no constructor carries them. -/

namespace Sys2Proof

/-- The ten registers that have a `sel` number (R21, R25, R75). -/
inductive Reg where
  | phase
  | freq
  | accRe
  | accIm
  | alphaFilter
  | alphaLoop
  | betaLoop
  | limit
  | timeConstant
  | status
deriving DecidableEq, Repr

/-- The fifteen commands (R74). -/
inductive Instr where
  /-- `NOP` (R150). -/
  | nop
  /-- `RESET` (R151). -/
  | reset
  /-- `SETCFG field, value` (R152): the field is named by `sel`, the value is operand `a`. -/
  | setcfg (field : Reg)
  /-- `CONFIG sample_rate, initial_frequency_offset, initial_phase` (R153): operands `a`, `b`, `c`. -/
  | config
  /-- `GET reg` (R154): the register is named by `sel`. -/
  | get (r : Reg)
  /-- `SETFREQ f` (R91): operand `a`. -/
  | setfreq
  /-- `SETPHASE p` (R92): operand `a`. -/
  | setphase
  /-- `STEP` (R93). -/
  | step
  /-- `SINCOS` (R94). -/
  | sincos
  /-- `ADJPHASE delta` (R95): operand `a`. -/
  | adjphase
  /-- `ADJFREQ delta` (R96): operand `a`. -/
  | adjfreq
  /-- `FILTER x_re, x_im` (R110): operands `a`, `b`. -/
  | filter
  /-- `DETECT z_re, z_im` (R120): operands `a`, `b`. -/
  | detect
  /-- `SAMPLE in_re, in_im` (R131): operands `a`, `b`. -/
  | sample
  /-- `PROCESS n` (R132): the batch length is the 16-bit field `n` (R80). -/
  | process (n : BitVec 16)
deriving DecidableEq, Repr

/-- The mnemonic of R74. -/
def Instr.mnemonic : Instr → String
  | .nop => "NOP"
  | .reset => "RESET"
  | .setcfg _ => "SETCFG"
  | .config => "CONFIG"
  | .get _ => "GET"
  | .setfreq => "SETFREQ"
  | .setphase => "SETPHASE"
  | .step => "STEP"
  | .sincos => "SINCOS"
  | .adjphase => "ADJPHASE"
  | .adjfreq => "ADJFREQ"
  | .filter => "FILTER"
  | .detect => "DETECT"
  | .sample => "SAMPLE"
  | .process _ => "PROCESS"

end Sys2Proof
end

