-- ==== Sys2Proof/Machine/State.lean ====
section
/-! DEFINITION. The state of one FPLL core (R20, R21, R25, R30, R50), its command and response ports
(R70, R71, R76), the host's actions still to come (R12, R60, R218), why a step can stop, and the state
after hardware reset (R34, R200). -/

namespace Sys2Proof.Machine

/-- The registers that hold a `Num` (R21, R25) in a numeric domain `α` (R6, R7): the hardware's is
`Regs Word`. `LIMIT` is hardwired (R25, R28) and stored nowhere; `STATUS` is `State.status`. -/
structure Regs (α : Type) where
  phase : α
  freq : α
  accRe : α
  accIm : α
  alphaFilter : α
  alphaLoop : α
  betaLoop : α
  timeConstant : α
deriving DecidableEq, Repr

/-- A sample buffer (R50): the bytes of the words that have been written since hardware reset, keyed by
byte offset in the little-endian mapping of R53, offsets strictly rising. An offset that is not listed
holds no value (R62). -/
abbrev Memory := List Host.Cell

/-- The three operand ports of a command (R11, R71). -/
structure Operands where
  a : Word
  b : Word
  c : Word
deriving DecidableEq, Repr

/-- A command as the host presents it (R70): the tuple `(cmd_word, a, b, c)`. -/
structure Command where
  word : Word
  operands : Operands
deriving DecidableEq, Repr

/-- A response (R70, R76): the tuple `(status, ra, rb)`. -/
structure Response where
  status : BitVec 8
  ra : Word
  rb : Word
deriving DecidableEq, Repr

/-- What the host can do to the core while no command is in progress (R60, R200, R218). Reading `OBUF` or
a response changes nothing (R55) and is a read of the state, not an action. -/
inductive HostAction where
  /-- Present a command on the command port (R70). -/
  | command (c : Command)
  /-- Write word `i` of `IBUF` through the host's own port (R50, R60). -/
  | writeIbuf (i : Nat) (v : Word)
  /-- Hardware reset (R200). -/
  | hardReset
deriving DecidableEq, Repr

/-- The state of one core with its ports. `regs`, `status`, `ibuf` and `obuf` are the spec's state (R20);
`operands` holds the operand words of the command presented last and `response` the last response since
hardware reset (R70); `host` (the host's actions to come, oldest first) and `draws` (how many free NaN
choices have been made, R6) are the model's own. -/
structure State where
  regs : Regs Word
  status : Word
  ibuf : Memory
  obuf : Memory
  operands : Operands
  response : Option Response
  host : List HostAction
  draws : Nat
deriving DecidableEq, Repr

/-- Why the machine stops. -/
inductive Fault where
  /-- Raised by `PROCESS` when it reads a word of `IBUF` that nothing has written since hardware reset;
  it names the word (R62, U5). Safe: the spec gives that run no result. -/
  | unwrittenWord (index : Nat)
  /-- Raised by a host write of an `IBUF` word index that does not exist, `2·MAXN` or more (R50). Safe:
  the spec gives such a write no meaning. -/
  | noSuchWord (index : Nat)
deriving DecidableEq, Repr

/-- Why a step has no meaning. -/
inductive Refusal where
  /-- Raised by `exec` for a command that the model gives no meaning yet; safe. No arm raises it. -/
  | notModelled (mnemonic : String)
deriving DecidableEq, Repr

/-- The registers after reset (R34). -/
def Regs.reset : Regs Word where
  phase := Config.zero
  freq := Config.zero
  accRe := Config.zero
  accIm := Config.zero
  alphaFilter := Config.zero
  alphaLoop := Config.alphaLoopDefault
  betaLoop := Config.betaLoopDefault
  timeConstant := Config.timeConstantDefault

/-- The state after hardware reset (R34, R200): `UNCONFIGURED`, no flags, no buffer word written, no
response pending, nothing presented by the host yet. The operand ports' value and the draw counter's are
the model's choice (DESIGN CHOICE: log entries 4 and 2). -/
def State.reset : State where
  regs := Regs.reset
  status := 0#32
  ibuf := []
  obuf := []
  operands := ⟨0#32, 0#32, 0#32⟩
  response := none
  host := []
  draws := 0

end Sys2Proof.Machine
end

