-- ==== Sys2Proof/Machine/Flags.lean ====
section
/-! DEFINITION. The `STATUS` register (R30, R31) and the four errors with their codes and flags (R170).
The arithmetic commands set no flag (R30), so the sticky error flags and `RUN` are all there is. -/

namespace Sys2Proof.Machine

/-- The four errors (R170). -/
inductive Err where
  | invalidConfiguration
  | illegalCommand
  | wrongState
  | badLength
deriving DecidableEq, Repr

/-- The response status of an error (R76, R170). -/
def Err.code : Err → BitVec 8
  | .invalidConfiguration => 0x01#8
  | .illegalCommand => 0x02#8
  | .wrongState => 0x03#8
  | .badLength => 0x04#8

/-- The sticky flag of an error as a bit of `STATUS` (R30, R170). -/
def Err.flag : Err → Word
  | .invalidConfiguration => 0x00000002#32
  | .illegalCommand => 0x00000004#32
  | .wrongState => 0x00000008#32
  | .badLength => 0x00000010#32

/-- Bit 0 of `STATUS` (R30). -/
def runBit : Word := 0x00000001#32

/-- The bits of `STATUS` that exist (R30): 4:0. The reserved bits 31:5 read as zero. -/
def statusMask : Word := 0x0000001F#32

/-- `STATUS.RUN` (R30, R31): the lifecycle state is `RUNNING`. -/
def State.running (s : State) : Bool := s.status.getLsbD 0

/-- `STATUS` with the flag of an error set; the others stay as they are (R172 (a)). -/
def withFlag (e : Err) (status : Word) : Word := status ||| e.flag

/-- `STATUS.RUN <- 1` (R153). -/
def withRun (status : Word) : Word := status ||| runBit

end Sys2Proof.Machine
end

