-- ==== Sys2Proof/Machine/Binary32.lean ====
section
/-! DEFINITION. IEEE 754 binary32 arithmetic on patterns (R6, R10): operands are read as exact integers in
units of 2^-149, the result is computed exactly and rounded once, to nearest with ties to even. The first
argument of each operation is the NaN it answers when its result is a NaN (R6 leaves which one open). -/

namespace Sys2Proof.Machine.F32

/-- Bit 31 (R10). -/
def sign (w : Word) : Bool := w.msb

/-- Bits 30:23, the biased exponent (R10). -/
def expField (w : Word) : Nat := (w.extractLsb' 23 8).toNat

/-- Bits 22:0, the fraction (R10). -/
def fracField (w : Word) : Nat := (w.extractLsb' 0 23).toNat

/-- Bits 30:0, the pattern without its sign. -/
def magField (w : Word) : Nat := (w.extractLsb' 0 31).toNat

/-- The magnitude pattern of an infinity. -/
def infMag : Nat := 0x7F800000

def isNaN (w : Word) : Bool := decide (infMag < magField w)
def isInf (w : Word) : Bool := magField w == infMag
def isZero (w : Word) : Bool := magField w == 0
def isFinite (w : Word) : Bool := decide (magField w < infMag)

/-- The magnitude of a finite datum as a count of units of 2^-149, the smallest subnormal. -/
def units (w : Word) : Nat :=
  if expField w = 0 then fracField w else (2 ^ 23 + fracField w) * 2 ^ (expField w - 1)

/-- A finite datum as a signed count of units of 2^-149. -/
def value (w : Word) : Int := if sign w then -(units w : Int) else (units w : Int)

/-- The magnitude pattern of the datum nearest to `p / q` units of 2^-149, ties to even, an overflow giving
the infinity. With `shift` the number of low bits that do not fit 24 significant ones, a rounded
significand of 2^24 carries into the exponent field by itself. -/
def roundRatio (p q : Nat) : Nat :=
  let shift := Nat.log2 (p / q) - 23
  let den := q * 2 ^ shift
  let sig := p / den
  let rem := p % den
  let up := decide (den < 2 * rem) || (2 * rem == den && sig % 2 == 1)
  min (shift * 2 ^ 23 + (if up then sig + 1 else sig)) infMag

/-- The pattern with a sign bit and a magnitude pattern. -/
def pack (s : Bool) (m : Nat) : Word := BitVec.ofBool s ++ BitVec.ofNat 31 m

/-- A NaN from a free sign and fraction; a zero fraction, which would encode an infinity, stands for the
fraction 1, so that every NaN and nothing else is drawn. -/
def nanOf (free : BitVec 24) : Word :=
  let frac : BitVec 23 := free.extractLsb' 0 23
  BitVec.ofBool free.msb ++ 0xFF#8 ++ (if frac = 0#23 then 1#23 else frac)

/-- `fneg` (R6): flips the sign bit, exact, also of zeros, infinities and NaNs. -/
def neg (a : Word) : Word := a ^^^ 0x80000000#32

/-- `fadd` (R6). A zero sum of finite operands is `-0` only when both operands are `-0`. -/
def add (nan a b : Word) : Word :=
  if isNaN a || isNaN b then nan
  else if isInf a then (if isInf b && sign a != sign b then nan else a)
  else if isInf b then b
  else
    let x := value a + value b
    if x = 0 then pack (sign a && sign b) 0
    else pack (decide (x < 0)) (roundRatio x.natAbs 1)

/-- `fsub` (R6): the sum with the second operand negated. -/
def sub (nan a b : Word) : Word := add nan a (neg b)

/-- `fmul` (R6). -/
def mul (nan a b : Word) : Word :=
  let s := sign a != sign b
  if isNaN a || isNaN b then nan
  else if isInf a || isInf b then (if isZero a || isZero b then nan else pack s infMag)
  else pack s (roundRatio (units a * units b) (2 ^ 149))

/-- `fdiv` (R6). -/
def div (nan a b : Word) : Word :=
  let s := sign a != sign b
  if isNaN a || isNaN b then nan
  else if isInf a then (if isInf b then nan else pack s infMag)
  else if isInf b then pack s 0
  else if isZero b then (if isZero a then nan else pack s infMag)
  else pack s (roundRatio (units a * 2 ^ 149) (units b))

/-- The order of the non-NaN data as integers: the magnitude pattern with its sign, both zeros at 0. -/
def key (w : Word) : Int := if sign w then -(magField w : Int) else (magField w : Int)

/-- `flt` (R6): quiet, false when either operand is a NaN, `+0` and `-0` equal. -/
def lt (a b : Word) : Bool := !isNaN a && !isNaN b && decide (key a < key b)

/-- `fgt` (R6). -/
def gt (a b : Word) : Bool := lt b a

end Sys2Proof.Machine.F32
end

