-- ==== Sys2Proof/Machine/Numerics.lean ====
section
/-! DEFINITION. The numerics record (R6, R7, R8, R9): the operations every rule is written over, its
hardware instantiation B32, and the three complex operations. -/

namespace Sys2Proof.Machine

/-- The numerics record (R6, R8). The first argument of an arithmetic operation is the number of the free
choice it makes if its result is a NaN (R6 "a model draws it"); an instantiation without NaNs ignores it. -/
structure Numerics (α : Type) where
  fadd : Nat → α → α → α
  fsub : Nat → α → α → α
  fmul : Nat → α → α → α
  fdiv : Nat → α → α → α
  fneg : α → α
  fgt : α → α → Bool
  flt : α → α → Bool
  zero : α
  one : α
  four : α
  twoPi : α
  halfPi : α
  sin : α → α
  cos : α → α
  exp : α → α
  atan2 : α → α → α

/-- The NaN that the `d`-th free choice draws (R6, U1). -/
def nanDraw (P : Params) (d : Nat) : Word := F32.nanOf (P.freeNaN d)

/-- `ATAN2` (R8), imaginary part first: on two zeros the parameter `ATAN2_ZERO` of their signs (R5). -/
def atan2Of (P : Params) (y x : Word) : Word :=
  if F32.isZero y && F32.isZero x then P.atan2Zero (F32.sign y) (F32.sign x) else P.atan2Approx y x

/-- B32 (R6): binary32 arithmetic with the black boxes of the parameters (R8). -/
def b32 (P : Params) : Numerics Word where
  fadd d := F32.add (nanDraw P d)
  fsub d := F32.sub (nanDraw P d)
  fmul d := F32.mul (nanDraw P d)
  fdiv d := F32.div (nanDraw P d)
  fneg := F32.neg
  fgt := F32.gt
  flt := F32.lt
  zero := Config.zero
  one := Config.one
  four := Config.four
  twoPi := Config.twoPi
  halfPi := Config.halfPi
  sin := P.sin
  cos := P.cos
  exp := P.exp
  atan2 := atan2Of P

/-- `cmul` (R9): four products, then one difference and one sum; six draws. -/
def Numerics.cmul {α : Type} (N : Numerics α) (d : Nat) (x y : Cpx α) : Cpx α where
  re := N.fsub (d + 2) (N.fmul d x.re y.re) (N.fmul (d + 1) x.im y.im)
  im := N.fadd (d + 5) (N.fmul (d + 3) x.re y.im) (N.fmul (d + 4) x.im y.re)

/-- `cscale` (R9): two draws. -/
def Numerics.cscale {α : Type} (N : Numerics α) (d : Nat) (r : α) (x : Cpx α) : Cpx α where
  re := N.fmul d r x.re
  im := N.fmul (d + 1) r x.im

/-- `cadd` (R9): two draws. -/
def Numerics.cadd {α : Type} (N : Numerics α) (d : Nat) (x y : Cpx α) : Cpx α where
  re := N.fadd d x.re y.re
  im := N.fadd (d + 1) x.im y.im

end Sys2Proof.Machine
end

