-- ==== Sys2Proof/Machine/Ops.lean ====
section
/-! DEFINITION. The named operations over state: updates of registers and state, the buffers as memory
(R50 to R53, R62), ending a command by `respond` or `raise` (R11, R172), and the lifecycle checks (R179).
There is no return from an error: "There is no return-from-trap command and nothing to restore" (R173). -/

namespace Sys2Proof.Machine

/-- What a command ends in. -/
abbrev Result := Host.Outcome State Fault Refusal

/-! ### Register updates -/

namespace Regs

variable {α : Type}

def setPhase (r : Regs α) (v : α) : Regs α := { r with phase := v }
def setFreq (r : Regs α) (v : α) : Regs α := { r with freq := v }

/-- `x[ACC] <- (r, i)` writes both parts (R11). -/
def setAcc (r : Regs α) (v : Cpx α) : Regs α := { r with accRe := v.re, accIm := v.im }
def setAlphaFilter (r : Regs α) (v : α) : Regs α := { r with alphaFilter := v }
def setAlphaLoop (r : Regs α) (v : α) : Regs α := { r with alphaLoop := v }
def setBetaLoop (r : Regs α) (v : α) : Regs α := { r with betaLoop := v }
def setTimeConstant (r : Regs α) (v : α) : Regs α := { r with timeConstant := v }

/-- `x[ACC]` (R11). -/
def acc (r : Regs α) : Cpx α := ⟨r.accRe, r.accIm⟩

end Regs

/-! ### State updates -/

namespace State

def setRegs (s : State) (v : Regs Word) : State := { s with regs := v }
def setStatus (s : State) (v : Word) : State := { s with status := v }
def setIbuf (s : State) (v : Memory) : State := { s with ibuf := v }
def setObuf (s : State) (v : Memory) : State := { s with obuf := v }
def setOperands (s : State) (v : Operands) : State := { s with operands := v }
def setResponse (s : State) (v : Option Response) : State := { s with response := v }
def setHost (s : State) (v : List HostAction) : State := { s with host := v }

/-- `k` free choices have been made: the next ones are fresh. -/
def addDraws (s : State) (k : Nat) : State := { s with draws := s.draws + k }

end State

/-! ### Buffers -/

namespace Memory

/-- The canonical form: offsets strictly rising. Every listed offset holds a value and an unlisted one
holds none (R62), so no entry can equal what an unlisted offset reads as. -/
abbrev wf (m : Memory) : Prop := List.Pairwise (fun x y : Host.Cell => x.1 < y.1) m

/-- Every listed offset is below a bound. -/
abbrev inRange (m : Memory) (bound : Nat) : Prop := ∀ x ∈ m, x.1 < bound

/-- The byte at an offset, none where nothing has been written (R62). -/
def getByte : Memory → Nat → Option Byte
  | [], _ => none
  | (a, v) :: m, k => if a = k then some v else getByte m k

/-- Write the byte at an offset, keeping the canonical form. -/
def setByte : Memory → Nat → Byte → Memory
  | [], k, v => [(k, v)]
  | (a, u) :: m, k, v =>
    if k < a then (k, v) :: (a, u) :: m
    else if k = a then (k, v) :: m
    else (a, u) :: setByte m k v

/-- Byte `j` of a word, byte 0 its bits 7:0 (R53). -/
def byteOf (v : Word) (j : Nat) : Byte := v.extractLsb' (8 * j) 8

/-- `MemRead(S:i, 4)` (R52, R53): the word at index `i`, bytes `4i` to `4i + 3`, little-endian; none where
the word holds no value (R62). -/
def readWord (m : Memory) (i : Nat) : Option Word :=
  match getByte m (4 * i), getByte m (4 * i + 1), getByte m (4 * i + 2), getByte m (4 * i + 3) with
  | some b0, some b1, some b2, some b3 => some (b3 ++ b2 ++ b1 ++ b0)
  | _, _, _, _ => none

/-- `MemWrite(S:i, 4, v)` (R52, R53): replaces the whole word at index `i`. -/
def writeWord (m : Memory) (i : Nat) (v : Word) : Memory :=
  setByte (setByte (setByte (setByte m (4 * i) (byteOf v 0)) (4 * i + 1) (byteOf v 1))
    (4 * i + 2) (byteOf v 2)) (4 * i + 3) (byteOf v 3)

/-- Sample `k` of a buffer (R51): word `2k` its real part, word `2k + 1` its imaginary part. -/
def writeSample (m : Memory) (k : Nat) (x : Cpx Word) : Memory :=
  writeWord (writeWord m (2 * k) x.re) (2 * k + 1) x.im

end Memory

/-! ### Ending a command -/

/-- `respond(ra, rb)` (R11, R71): status `0x00` and two result words. -/
def respond (ra rb : Word) (s : State) : Result := .next (s.setResponse (some ⟨0x00#8, ra, rb⟩))

/-- The state a command that raises `e` leaves (R172): the sticky flag of `e` set, the response carrying
its code and two zero words, nothing else changed. -/
def raised (e : Err) (s : State) : State :=
  (s.setStatus (withFlag e s.status)).setResponse (some ⟨e.code, 0#32, 0#32⟩)

/-- `raise e` (R11, R172): taking an error, the one operation every command shares. Control goes nowhere;
the core is ready for the next command. -/
def raise (e : Err) (s : State) : Result := .next (raised e s)

/-- A command admitted in `RUNNING` only, else `WrongState` (R179). -/
def whenRunning (s : State) (k : Result) : Result := if s.running then k else raise .wrongState s

/-- A command admitted in `UNCONFIGURED` only, else `WrongState` (R179). -/
def whenUnconfigured (s : State) (k : Result) : Result := if s.running then raise .wrongState s else k

/-! ### Hardware reset -/

/-- Hardware reset (R200): every piece of the spec's state at its reset value, no response pending. The
host's actions still to come are the host's and stay; the draw counter goes on. -/
def hardReset (s : State) : State := (State.reset.setHost s.host).addDraws s.draws

end Sys2Proof.Machine
end

