-- ==== Sys2Proof/Machine/Operands.lean ====
section
/-! DEFINITION. The operand forms of a command: the ports `a`, `b`, `c` (R71), a register named by `sel`
(R75) and the immediate `n` (R80). -/

namespace Sys2Proof.Machine

/-- Operand port `a` (R11, R71). -/
def opA (s : State) : Word := s.operands.a

/-- Operand port `b`. -/
def opB (s : State) : Word := s.operands.b

/-- Operand port `c`. -/
def opC (s : State) : Word := s.operands.c

/-- The complex operand `(a, b)` of `FILTER`, `DETECT` and `SAMPLE`: real part first (R74). -/
def opAB (s : State) : Cpx Word := ⟨opA s, opB s⟩

/-- `n` as an unsigned number, never scaled or sign-extended (R80). -/
def batchLength (n : BitVec 16) : Nat := n.toNat

/-- `x[R]` (R11, R21, R25): the content of a register. `LIMIT` is hardwired (R25, R28); the reserved bits
of `STATUS` read as zero (R30). -/
def readReg (s : State) : Reg → Word
  | .phase => s.regs.phase
  | .freq => s.regs.freq
  | .accRe => s.regs.accRe
  | .accIm => s.regs.accIm
  | .alphaFilter => s.regs.alphaFilter
  | .alphaLoop => s.regs.alphaLoop
  | .betaLoop => s.regs.betaLoop
  | .limit => Config.halfPi
  | .timeConstant => s.regs.timeConstant
  | .status => s.status &&& statusMask

/-- The host's read of word `i` of `OBUF` between commands (R50, R60); none where the word holds no value
(R62). A read changes nothing (R55). The spec is silent on an index of `2·MAXN` or more: none, as for an
unwritten word, is the model's choice (log entry 19). -/
def hostReadObuf (s : State) (i : Nat) : Option Word := s.obuf.readWord i

end Sys2Proof.Machine
end

