-- ==== Sys2Proof/WellFormed.lean ====
section
/-! DEFINITION. Which command terms have an encoding (R75). -/

namespace Sys2Proof

/-- The three overridable fields, the only legal `sel` values of `SETCFG` (R75, R152). -/
def Reg.isField : Reg → Bool
  | .alphaLoop => true
  | .betaLoop => true
  | .timeConstant => true
  | .phase => false
  | .freq => false
  | .accRe => false
  | .accIm => false
  | .alphaFilter => false
  | .limit => false
  | .status => false

/-- A command is well formed when its `sel` is legal for its opcode (R75); every other operand of the
syntax is legal at every value of its type (R80). -/
def Instr.wellFormed : Instr → Bool
  | .nop => true
  | .reset => true
  | .setcfg field => field.isField
  | .config => true
  | .get _ => true
  | .setfreq => true
  | .setphase => true
  | .step => true
  | .sincos => true
  | .adjphase => true
  | .adjfreq => true
  | .filter => true
  | .detect => true
  | .sample => true
  | .process _ => true

end Sys2Proof
end

