-- ==== Sys2Proof/Machine/Construction.lean ====
section
/-! DEFINITION. Construction, configuration and register access (R150 to R155). -/

namespace Sys2Proof.Machine

/-- `NOP` (R150). -/
def execNop (s : State) : Result := respond 0 0 s

/-- `RESET` (R151, R201): every register at its reset value, `STATUS` cleared, the buffers untouched. -/
def execReset (s : State) : Result := respond 0 0 ((s.setRegs Regs.reset).setStatus 0)

/-- The documented derivation `beta = alpha² / 4` (R27, R152). Two draws. -/
def betaOf {α : Type} (N : Numerics α) (d : Nat) (alpha : α) : α :=
  N.fdiv (d + 1) (N.fmul d alpha alpha) N.four

/-- The effect of `SETCFG` on the registers (R152): writing `ALPHA_LOOP` also rewrites `BETA_LOOP`. A
register that is no field is left alone. -/
def setField {α : Type} (N : Numerics α) (d : Nat) (r : Regs α) (field : Reg) (v : α) : Regs α :=
  match field with
  | .alphaLoop => (r.setAlphaLoop v).setBetaLoop (betaOf N d v)
  | .betaLoop => r.setBetaLoop v
  | .timeConstant => r.setTimeConstant v
  | .phase => r
  | .freq => r
  | .accRe => r
  | .accIm => r
  | .alphaFilter => r
  | .limit => r
  | .status => r

/-- `SETCFG field, value` (R152) with the parameters `P`: the decode check comes before the lifecycle
check (R171). -/
def setcfgCmd (P : Params) (field : Reg) (s : State) : Result :=
  if field.isField then
    whenUnconfigured s
      (respond 0 0 ((s.setRegs (setField (b32 P) s.draws s.regs field (opA s))).addDraws 2))
  else raise .illegalCommand s

/-- `SETCFG field, value` (R152). -/
def execSetcfg (field : Reg) (s : State) : Result := setcfgCmd Config.params field s

/-- The check of `CONFIG` (R153, R170): the sample rate and the time constant are greater than zero. -/
def configValid {α : Type} (N : Numerics α) (r : Regs α) (rate : α) : Bool :=
  N.fgt rate N.zero && N.fgt r.timeConstant N.zero

/-- `1 − exp(−1 / (sample_rate × time_constant))` in the order of R153. Three draws. -/
def alphaFilterOf {α : Type} (N : Numerics α) (d : Nat) (rate timeConstant : α) : α :=
  let t1 := N.fmul d rate timeConstant
  let t2 := N.fdiv (d + 1) N.one t1
  let t3 := N.fneg t2
  let t4 := N.exp t3
  N.fsub (d + 2) N.one t4

/-- Hz to radians per sample (R153): the ratio first, then `2·pi`. Two draws. -/
def radiansPerSample {α : Type} (N : Numerics α) (d : Nat) (rate offset : α) : α :=
  N.fmul (d + 1) (N.fdiv d offset rate) N.twoPi

/-- The effect of a successful `CONFIG` on the registers (R153). Five draws. -/
def configure {α : Type} (N : Numerics α) (d : Nat) (r : Regs α) (rate offset ph : α) : Regs α :=
  (((r.setAlphaFilter (alphaFilterOf N d rate r.timeConstant)).setFreq
    (radiansPerSample N (d + 3) rate offset)).setPhase ph).setAcc ⟨N.zero, N.zero⟩

/-- `CONFIG sample_rate, initial_frequency_offset, initial_phase` (R153) with the parameters `P`. -/
def configCmd (P : Params) (s : State) : Result :=
  whenUnconfigured s
    (if configValid (b32 P) s.regs (opA s) then
      respond 0 0
        (((s.setRegs (configure (b32 P) s.draws s.regs (opA s) (opB s) (opC s))).setStatus
          (withRun s.status)).addDraws 5)
     else raise .invalidConfiguration s)

/-- `CONFIG` (R153). -/
def execConfig (s : State) : Result := configCmd Config.params s

/-- `GET reg` (R154): no side effect. -/
def execGet (r : Reg) (s : State) : Result := respond (readReg s r) 0 s

end Sys2Proof.Machine
end

