-- ==== Sys2Proof/Machine/LoopFilter.lean ====
section
/-! DEFINITION. The loop filter command (R110 to R112). -/

namespace Sys2Proof.Machine

/-- The output `y[n]` of the recurrence (R110) for the input `x`: `1 − alpha_filter` is formed by one
`fsub` on every call, each term is scaled, `alpha × x` is the left addend. Seven draws. -/
def filterOut {α : Type} (N : Numerics α) (d : Nat) (r : Regs α) (x : Cpx α) : Cpx α :=
  let om := N.fsub d N.one r.alphaFilter
  N.cadd (d + 5) (N.cscale (d + 1) r.alphaFilter x) (N.cscale (d + 3) om r.acc)

/-- `FILTER x_re, x_im` (R110) with the parameters `P`: the output is responded and becomes `ACC`. -/
def filterCmd (P : Params) (s : State) : Result :=
  let y := filterOut (b32 P) s.draws s.regs (opAB s)
  whenRunning s (respond y.re y.im ((s.setRegs (s.regs.setAcc y)).addDraws 7))

/-- `FILTER x_re, x_im` (R110). -/
def execFilter (s : State) : Result := filterCmd Config.params s

end Sys2Proof.Machine
end

