-- ==== Sys2Proof/Machine/Oscillator.lean ====
section
/-! DEFINITION. The oscillator commands (R90 to R98): the contract operations over any numeric domain, and
the six commands. Each command is admitted in `RUNNING` only and cannot fail after that (R90). -/

namespace Sys2Proof.Machine

variable {α : Type}

/-- `step()` (R93): the phase advances by the frequency; nothing wraps it (R22). One draw. -/
def stepPhase (N : Numerics α) (d : Nat) (r : Regs α) : Regs α := r.setPhase (N.fadd d r.phase r.freq)

/-- `sincos()` (R94): sine and cosine of the current phase, sine first. -/
def sinCos (N : Numerics α) (r : Regs α) : Cpx α := ⟨N.sin r.phase, N.cos r.phase⟩

/-- `adjust_phase(delta)` (R95), unclamped. One draw. -/
def adjustPhase (N : Numerics α) (d : Nat) (r : Regs α) (delta : α) : Regs α :=
  r.setPhase (N.fadd d r.phase delta)

/-- `adjust_freq(delta)` (R96), unclamped. One draw. -/
def adjustFreq (N : Numerics α) (d : Nat) (r : Regs α) (delta : α) : Regs α :=
  r.setFreq (N.fadd d r.freq delta)

/-- `SETFREQ f` (R91): stored bit for bit. -/
def execSetfreq (s : State) : Result :=
  whenRunning s (respond 0 0 (s.setRegs (s.regs.setFreq (opA s))))

/-- `SETPHASE p` (R92): stored bit for bit. -/
def execSetphase (s : State) : Result :=
  whenRunning s (respond 0 0 (s.setRegs (s.regs.setPhase (opA s))))

/-- `STEP` (R93) with the parameters `P`. -/
def stepCmd (P : Params) (s : State) : Result :=
  whenRunning s (respond 0 0 ((s.setRegs (stepPhase (b32 P) s.draws s.regs)).addDraws 1))

/-- `STEP` (R93). -/
def execStep (s : State) : Result := stepCmd Config.params s

/-- `SINCOS` (R94) with the parameters `P`: no state is written. -/
def sincosCmd (P : Params) (s : State) : Result :=
  whenRunning s (respond (sinCos (b32 P) s.regs).re (sinCos (b32 P) s.regs).im s)

/-- `SINCOS` (R94). -/
def execSincos (s : State) : Result := sincosCmd Config.params s

/-- `ADJPHASE delta` (R95) with the parameters `P`. -/
def adjphaseCmd (P : Params) (s : State) : Result :=
  whenRunning s (respond 0 0 ((s.setRegs (adjustPhase (b32 P) s.draws s.regs (opA s))).addDraws 1))

/-- `ADJPHASE delta` (R95). -/
def execAdjphase (s : State) : Result := adjphaseCmd Config.params s

/-- `ADJFREQ delta` (R96) with the parameters `P`. -/
def adjfreqCmd (P : Params) (s : State) : Result :=
  whenRunning s (respond 0 0 ((s.setRegs (adjustFreq (b32 P) s.draws s.regs (opA s))).addDraws 1))

/-- `ADJFREQ delta` (R96). -/
def execAdjfreq (s : State) : Result := adjfreqCmd Config.params s

end Sys2Proof.Machine
end

