-- ==== Sys2Proof/Machine/PhaseDetector.lean ====
section
/-! DEFINITION. The phase detector command (R120 to R122). -/

namespace Sys2Proof.Machine

/-- The saturation of R120: upper bound tested first, strict comparisons, a NaN passes through. -/
def clamp {α : Type} (N : Numerics α) (L x : α) : α :=
  if N.fgt x L then L else if N.flt x (N.fneg L) then N.fneg L else x

/-- `detect(z)` (R120): the arctangent, imaginary part first, saturated to the hardwired `LIMIT` (R28). -/
def detectPhase {α : Type} (N : Numerics α) (z : Cpx α) : α := clamp N N.halfPi (N.atan2 z.im z.re)

/-- `DETECT z_re, z_im` (R120) with the parameters `P`: no state is written. -/
def detectCmd (P : Params) (s : State) : Result :=
  whenRunning s (respond (detectPhase (b32 P) (opAB s)) 0 s)

/-- `DETECT z_re, z_im` (R120). -/
def execDetect (s : State) : Result := detectCmd Config.params s

end Sys2Proof.Machine
end

