-- ==== Sys2Proof/Machine/LoopController.lean ====
section
/-! DEFINITION. The loop controller (R130 to R139): the six-stage pipeline and the commands that run it. -/

namespace Sys2Proof.Machine

/-- How many free NaN choices one pass of the pipeline makes. -/
def pipeDraws : Nat := 18

/-- `PIPE` (R130): the registers it leaves and the output, which is the rotated sample of stage 2 and is
not altered by the feedback (R135). The multiplier of stage 2 has the sine in its real part (R136). -/
def pipe {α : Type} (N : Numerics α) (d : Nat) (r : Regs α) (input : Cpx α) : Regs α × Cpx α :=
  let r1 := stepPhase N d r                                             -- 1. advance the oscillator
  let rot := N.cmul (d + 1) input (sinCos N r1)                         -- 2. derotate, 3. emit
  let y := filterOut N (d + 7) r1 rot                                   -- 4. smooth
  let r4 := r1.setAcc y
  let e := detectPhase N y                                              -- 5. detect and saturate
  let r5 := adjustPhase N (d + 15) r4 (N.fmul (d + 14) r4.alphaLoop e)  -- 6. feedback
  (adjustFreq N (d + 17) r5 (N.fmul (d + 16) r5.betaLoop e), rot)

/-- `SAMPLE in_re, in_im` (R131) with the parameters `P`. -/
def sampleCmd (P : Params) (s : State) : Result :=
  let out := pipe (b32 P) s.draws s.regs (opAB s)
  whenRunning s (respond out.2.re out.2.im ((s.setRegs out.1).addDraws pipeDraws))

/-- `SAMPLE in_re, in_im` (R131). -/
def execSample (s : State) : Result := sampleCmd Config.params s

/-- One turn of the loop of `PROCESS` (R132) on the input `x`, read as sample `k`: the pipeline runs and
its output is written as sample `k` of `OBUF`. -/
def processOne (N : Numerics Word) (s : State) (k : Nat) (x : Cpx Word) : State :=
  let out := pipe N s.draws s.regs x
  ((s.setRegs out.1).setObuf (s.obuf.writeSample k out.2)).addDraws pipeDraws

/-- The loop of `PROCESS` (R132, R58 (b)): `count` turns from sample `k` on, each reading word `2k` and
then word `2k + 1` of `IBUF`; a word that holds no value is a fault naming it (R62). -/
def processLoop (N : Numerics Word) : (count k : Nat) → State → Result
  | 0, _, s => .next s
  | count + 1, k, s =>
    match s.ibuf.readWord (2 * k) with
    | none => .fault (.unwrittenWord (2 * k))
    | some a =>
      match s.ibuf.readWord (2 * k + 1) with
      | none => .fault (.unwrittenWord (2 * k + 1))
      | some b => processLoop N count (k + 1) (processOne N s k ⟨a, b⟩)

/-- End the command normally from the state a result carries. -/
def thenRespond (ra rb : Word) : Result → Result
  | .next s => respond ra rb s
  | .fault f => .fault f
  | .refused r => .refused r

/-- `PROCESS n` (R132) with the parameters `P`: `BadLength` before any access when `n > MAXN`. -/
def processCmd (P : Params) (n : BitVec 16) (s : State) : Result :=
  whenRunning s
    (if P.maxN < batchLength n then raise .badLength s
     else thenRespond 0 0 (processLoop (b32 P) (batchLength n) 0 s))

/-- `PROCESS n` (R132). -/
def execProcess (n : BitVec 16) (s : State) : Result := processCmd Config.params n s

end Sys2Proof.Machine
end

