-- ==== Sys2Proof/Machine/Dispatch.lean ====
section
/-! DEFINITION. One arm per command. -/

namespace Sys2Proof.Machine

def exec (i : Instr) (s : State) : Host.Outcome State Fault Refusal :=
  match i with
  | .nop => Sys2Proof.Machine.execNop s
  | .reset => Sys2Proof.Machine.execReset s
  | .setcfg field => Sys2Proof.Machine.execSetcfg field s
  | .config => Sys2Proof.Machine.execConfig s
  | .get r => Sys2Proof.Machine.execGet r s
  | .setfreq => Sys2Proof.Machine.execSetfreq s
  | .setphase => Sys2Proof.Machine.execSetphase s
  | .step => Sys2Proof.Machine.execStep s
  | .sincos => Sys2Proof.Machine.execSincos s
  | .adjphase => Sys2Proof.Machine.execAdjphase s
  | .adjfreq => Sys2Proof.Machine.execAdjfreq s
  | .filter => Sys2Proof.Machine.execFilter s
  | .detect => Sys2Proof.Machine.execDetect s
  | .sample => Sys2Proof.Machine.execSample s
  | .process n => Sys2Proof.Machine.execProcess n s

end Sys2Proof.Machine
end

