-- ==== Sys2Proof/Decode.lean ====
section
/-! DEFINITION. The command word (R72 to R79): the decoder, total on every 32-bit word and rejecting by
name, the encoder written from the same tables, and the opcode map of R74 as rows of mask and match. -/

namespace Sys2Proof

/-- Bits 31:24 of the command word (R72). -/
def opcodeField (w : Word) : BitVec 8 := w.extractLsb' 24 8

/-- Bits 23:16 of the command word (R72). -/
def selField (w : Word) : BitVec 8 := w.extractLsb' 16 8

/-- Bits 15:0 of the command word (R72). -/
def nField (w : Word) : BitVec 16 := w.extractLsb' 0 16

/-- The register number of a register (R21, R25). -/
def Reg.sel : Reg → BitVec 8
  | .phase => 0x00#8
  | .freq => 0x01#8
  | .accRe => 0x02#8
  | .accIm => 0x03#8
  | .alphaFilter => 0x08#8
  | .alphaLoop => 0x09#8
  | .betaLoop => 0x0A#8
  | .limit => 0x0B#8
  | .timeConstant => 0x0C#8
  | .status => 0x0F#8

/-- The register that a `sel` value names, if any (R25, R75). -/
def Reg.ofSel (sel : BitVec 8) : Option Reg :=
  if sel = 0x00#8 then some .phase
  else if sel = 0x01#8 then some .freq
  else if sel = 0x02#8 then some .accRe
  else if sel = 0x03#8 then some .accIm
  else if sel = 0x08#8 then some .alphaFilter
  else if sel = 0x09#8 then some .alphaLoop
  else if sel = 0x0A#8 then some .betaLoop
  else if sel = 0x0B#8 then some .limit
  else if sel = 0x0C#8 then some .timeConstant
  else if sel = 0x0F#8 then some .status
  else none

/-- Why a command word is illegal: the four cases of R77. -/
inductive Illegal where
  /-- R77 (a): the opcode is not one of the fifteen. -/
  | unassignedOpcode
  /-- R77 (b): format `Z` or `N` with a non-zero `sel` field. -/
  | selNotZero
  /-- R77 (c): format `Z` or `S` with a non-zero `n` field. -/
  | nNotZero
  /-- R77 (d): format `S` with a `sel` value that R75 does not allow the opcode. -/
  | selNotLegal
deriving DecidableEq, Repr

/-- Format `Z` (R73): `sel` and `n` are zero. -/
def decodeZ (i : Instr) (w : Word) : Except Illegal Instr :=
  if selField w ≠ 0 then .error .selNotZero
  else if nField w ≠ 0 then .error .nNotZero
  else .ok i

/-- Format `S` for `GET` (R73, R75): `n` is zero and `sel` names a register. -/
def decodeGet (w : Word) : Except Illegal Instr :=
  if nField w ≠ 0 then .error .nNotZero
  else
    match Reg.ofSel (selField w) with
    | some r => .ok (.get r)
    | none => .error .selNotLegal

/-- Format `S` for `SETCFG` (R73, R75): `n` is zero and `sel` names an overridable field. -/
def decodeSetcfg (w : Word) : Except Illegal Instr :=
  if nField w ≠ 0 then .error .nNotZero
  else
    match Reg.ofSel (selField w) with
    | some r => if r.isField then .ok (.setcfg r) else .error .selNotLegal
    | none => .error .selNotLegal

/-- Format `N` (R73): `sel` is zero and `n` is the batch length. -/
def decodeProcess (w : Word) : Except Illegal Instr :=
  if selField w ≠ 0 then .error .selNotZero
  else .ok (.process (nField w))

/-- The decoder (R72 to R77). -/
def decode (w : Word) : Except Illegal Instr :=
  let op := opcodeField w
  if op = 0x00#8 then decodeZ .nop w
  else if op = 0x01#8 then decodeZ .reset w
  else if op = 0x02#8 then decodeSetcfg w
  else if op = 0x03#8 then decodeZ .config w
  else if op = 0x04#8 then decodeGet w
  else if op = 0x10#8 then decodeZ .setfreq w
  else if op = 0x11#8 then decodeZ .setphase w
  else if op = 0x12#8 then decodeZ .step w
  else if op = 0x13#8 then decodeZ .sincos w
  else if op = 0x14#8 then decodeZ .adjphase w
  else if op = 0x15#8 then decodeZ .adjfreq w
  else if op = 0x20#8 then decodeZ .filter w
  else if op = 0x30#8 then decodeZ .detect w
  else if op = 0x40#8 then decodeZ .sample w
  else if op = 0x41#8 then decodeProcess w
  else .error .unassignedOpcode

/-- The opcode of R74. -/
def Instr.opcode : Instr → BitVec 8
  | .nop => 0x00#8
  | .reset => 0x01#8
  | .setcfg _ => 0x02#8
  | .config => 0x03#8
  | .get _ => 0x04#8
  | .setfreq => 0x10#8
  | .setphase => 0x11#8
  | .step => 0x12#8
  | .sincos => 0x13#8
  | .adjphase => 0x14#8
  | .adjfreq => 0x15#8
  | .filter => 0x20#8
  | .detect => 0x30#8
  | .sample => 0x40#8
  | .process _ => 0x41#8

/-- The `sel` field of a command: a register number in format `S`, else zero (R72). -/
def Instr.selBits : Instr → BitVec 8
  | .nop => 0#8
  | .reset => 0#8
  | .setcfg field => field.sel
  | .config => 0#8
  | .get r => r.sel
  | .setfreq => 0#8
  | .setphase => 0#8
  | .step => 0#8
  | .sincos => 0#8
  | .adjphase => 0#8
  | .adjfreq => 0#8
  | .filter => 0#8
  | .detect => 0#8
  | .sample => 0#8
  | .process _ => 0#8

/-- The `n` field of a command: the batch length of `PROCESS`, else zero (R72). -/
def Instr.nBits : Instr → BitVec 16
  | .nop => 0#16
  | .reset => 0#16
  | .setcfg _ => 0#16
  | .config => 0#16
  | .get _ => 0#16
  | .setfreq => 0#16
  | .setphase => 0#16
  | .step => 0#16
  | .sincos => 0#16
  | .adjphase => 0#16
  | .adjfreq => 0#16
  | .filter => 0#16
  | .detect => 0#16
  | .sample => 0#16
  | .process n => n

/-- The command word of a command (R72): `{opcode, sel, n}`. -/
def encode (i : Instr) : Word := i.opcode ++ i.selBits ++ i.nBits

/-- One row of the opcode map (R74): a word matches when `w & mask = matchWord` and, for format `S`, its
`sel` is one of `selLegal` (R73). -/
structure OpcodeRow where
  mnemonic : String
  matchWord : Word
  mask : Word
  selLegal : Option (List (BitVec 8))
deriving DecidableEq, Repr

/-- `cmd_word & mask == match` and the `sel` condition of format `S` (R73). -/
def OpcodeRow.accepts (row : OpcodeRow) (w : Word) : Bool :=
  w &&& row.mask == row.matchWord &&
    (match row.selLegal with
      | none => true
      | some legal => legal.contains (selField w))

/-- The opcode map of R74 with the legal `sel` values of R75. -/
def opcodeMap : List OpcodeRow :=
  [ ⟨"NOP", 0x00000000#32, 0xFFFFFFFF#32, none⟩,
    ⟨"RESET", 0x01000000#32, 0xFFFFFFFF#32, none⟩,
    ⟨"SETCFG", 0x02000000#32, 0xFF00FFFF#32, some [0x09#8, 0x0A#8, 0x0C#8]⟩,
    ⟨"CONFIG", 0x03000000#32, 0xFFFFFFFF#32, none⟩,
    ⟨"GET", 0x04000000#32, 0xFF00FFFF#32,
      some [0x00#8, 0x01#8, 0x02#8, 0x03#8, 0x08#8, 0x09#8, 0x0A#8, 0x0B#8, 0x0C#8, 0x0F#8]⟩ ] ++
  [ ⟨"SETFREQ", 0x10000000#32, 0xFFFFFFFF#32, none⟩,
    ⟨"SETPHASE", 0x11000000#32, 0xFFFFFFFF#32, none⟩,
    ⟨"STEP", 0x12000000#32, 0xFFFFFFFF#32, none⟩,
    ⟨"SINCOS", 0x13000000#32, 0xFFFFFFFF#32, none⟩,
    ⟨"ADJPHASE", 0x14000000#32, 0xFFFFFFFF#32, none⟩,
    ⟨"ADJFREQ", 0x15000000#32, 0xFFFFFFFF#32, none⟩ ] ++
  [ ⟨"FILTER", 0x20000000#32, 0xFFFFFFFF#32, none⟩,
    ⟨"DETECT", 0x30000000#32, 0xFFFFFFFF#32, none⟩,
    ⟨"SAMPLE", 0x40000000#32, 0xFFFFFFFF#32, none⟩,
    ⟨"PROCESS", 0x41000000#32, 0xFFFF0000#32, none⟩ ]

/-- Word `k` of a transaction (R79: one command word and three operand words, whatever the opcode) given as
one number. That its bits number the command word 31:0 and `a`, `b`, `c` upwards from there, and that bits
not given are zero, is the model's choice: R70 gives the tuple only (DESIGN CHOICE: log entry 20). -/
def transactionWord (k : Nat) (bits : Nat) : Word := BitVec.ofNat 32 (bits >>> (32 * k))

/-- What the decoder reads from a transaction given as `nbits` bits of a number; every bit above them is
zero. The operand words are data and take no part in decoding (R71). -/
def decodeTableWord (nbits w : Nat) : Option Instr :=
  match decode (transactionWord 0 (w % 2 ^ nbits)) with
  | .ok i => some i
  | .error _ => none

end Sys2Proof
end

