-- ==== Sys2Proof/Machine/Port.lean ====
section
/-! DEFINITION. The command port (R70) and the host's own port on `IBUF` (R50, R60): what a step does
around the command it performs. -/

namespace Sys2Proof.Machine

/-- The command's operand words appear on the operand ports (R70, R71). -/
def latch (c : Command) (s : State) : State := s.setOperands c.operands

/-- A command word that is illegal raises `IllegalCommand` (R77, R170). -/
def refuseWord (s : State) : Result := raise .illegalCommand s

/-- A host write of word `i` of `IBUF` (R50, R52, R60) with the parameters `P`; an index that does not
exist is a fault naming it. -/
def hostWrite (P : Params) (i : Nat) (v : Word) (s : State) : Result :=
  if i < 2 * P.maxN then .next (s.setIbuf (s.ibuf.writeWord i v)) else .fault (.noSuchWord i)

/-- The command whose four words (R70, R79) are these bits, in the numbering of `transactionWord`: the
model's choice (log entry 20). -/
def transaction (bits : Nat) : Command :=
  ⟨transactionWord 0 bits, ⟨transactionWord 1 bits, transactionWord 2 bits, transactionWord 3 bits⟩⟩

end Sys2Proof.Machine
end

