-- ==== Sys2Proof/Machine/Step.lean ====
section
/-! DEFINITION. One step of the core: the host's oldest action takes effect, wholly, before the next (R58,
R70). With no action left the core is idle and nothing changes (R184, R217). -/

namespace Sys2Proof.Machine

/-- Perform one command (R70): decode its word, then its meaning, or `IllegalCommand`. -/
def perform (c : Command) (s : State) : Host.Outcome State Fault Refusal :=
  match decode c.word with
  | .ok i => exec i (latch c s)
  | .error _ => refuseWord (latch c s)

def step (s : State) : Host.Outcome State Fault Refusal :=
  match s.host with
  | [] => .next s
  | .command c :: rest => perform c (s.setHost rest)
  | .writeIbuf i v :: rest => hostWrite Config.params i v (s.setHost rest)
  | .hardReset :: rest => .next (hardReset (s.setHost rest))

/-- The host presents next the command whose four words are these bits, every bit above `nbits` zero (the
numbering of the bits is the model's choice: log entry 20). -/
def State.withFetchWord (s : State) (nbits w : Nat) : State :=
  s.setHost (.command (transaction (w % 2 ^ nbits)) :: s.host)

end Sys2Proof.Machine
end

