-- ==== Sys2Proof/Machine/Assembler.lean ====
section
/-! DEFINITION. The assembler's view of a command (R81) and the pseudo-instruction `CONSTRUCT` (R82). -/

namespace Sys2Proof.Machine

/-- The name of a register in assembler text (R21, R25, R81). -/
def regName : Reg → String
  | .phase => "PHASE"
  | .freq => "FREQ"
  | .accRe => "ACC_RE"
  | .accIm => "ACC_IM"
  | .alphaFilter => "ALPHA_FILTER"
  | .alphaLoop => "ALPHA_LOOP"
  | .betaLoop => "BETA_LOOP"
  | .limit => "LIMIT"
  | .timeConstant => "TIME_CONSTANT"
  | .status => "STATUS"

/-- A real operand of an assembler line (R81): a decimal literal, given by its sign and the fraction it
denotes, or a binary32 pattern. -/
inductive Literal where
  | decimal (negative : Bool) (num den : Nat)
  | pattern (w : Word)
deriving DecidableEq, Repr

/-- The operand word of a real operand (R81): the binary32 nearest to a decimal literal, ties to even. -/
def literalWord : Literal → Word
  | .decimal negative num den => F32.pack negative (F32.roundRatio (num * 2 ^ 149) den)
  | .pattern w => w

/-- How many of the operand ports `a`, `b`, `c` a command reads (R74). -/
def operandCount : Instr → Nat
  | .nop => 0
  | .reset => 0
  | .setcfg _ => 1
  | .config => 3
  | .get _ => 0
  | .setfreq => 1
  | .setphase => 1
  | .step => 0
  | .sincos => 0
  | .adjphase => 1
  | .adjfreq => 1
  | .filter => 2
  | .detect => 2
  | .sample => 2
  | .process _ => 0

/-- The operand ports for a list of operands in the order `a`, `b`, `c`; a port the command does not read
is ignored whatever its bits (R71) and is given zero. -/
def operandsOf (operands : List Word) : Operands :=
  ⟨(operands[0]?).getD 0, (operands[1]?).getD 0, (operands[2]?).getD 0⟩

/-- The command with these real operands (R81): none when it has no encoding or not exactly the operands its
row has. -/
def assemble (i : Instr) (operands : List Literal) : Option Command :=
  if i.wellFormed && operands.length == operandCount i then
    some ⟨encode i, operandsOf (operands.map literalWord)⟩
  else none

/-- The offset that `CONSTRUCT` supplies when it is left out (R82): `-2691000.0`. -/
def constructOffset : Word := 0xCA243EE0#32

/-- `CONSTRUCT fs [, off [, ph]]` (R82): `RESET`, then `CONFIG fs, off, ph`. -/
def construct (rate : Word) (offset ph : Option Word) : List Command :=
  [⟨encode .reset, ⟨0, 0, 0⟩⟩,
   ⟨encode .config, ⟨rate, offset.getD constructOffset, ph.getD Config.zero⟩⟩]

/-! ### Reading a line of text (R81) -/

def isBlank (c : Char) : Bool := c == ' ' || c == '\t'

/-- A piece of a line without the blanks around it. -/
def trim (l : List Char) : List Char := ((l.dropWhile isBlank).reverse.dropWhile isBlank).reverse

/-- The pieces of a line between the commas. -/
def commaParts : List Char → List (List Char)
  | [] => [[]]
  | c :: l =>
    if c == ',' then [] :: commaParts l
    else
      match commaParts l with
      | [] => [[c]]
      | part :: parts => (c :: part) :: parts

/-- The value of a digit, none for another character. -/
def digitValue (c : Char) : Option Nat :=
  let k := c.toNat
  if '0'.toNat ≤ k ∧ k ≤ '9'.toNat then some (k - '0'.toNat)
  else if 'A'.toNat ≤ k ∧ k ≤ 'F'.toNat then some (k - 'A'.toNat + 10)
  else if 'a'.toNat ≤ k ∧ k ≤ 'f'.toNat then some (k - 'a'.toNat + 10)
  else none

/-- The number that digits in a base denote, after the ones already read as `acc`. -/
def digitsFrom (base acc : Nat) : List Char → Option Nat
  | [] => some acc
  | c :: l =>
    match digitValue c with
    | some d => if d < base then digitsFrom base (acc * base + d) l else none
    | none => none

/-- The number that one or more digits denote. -/
def natural (base : Nat) (l : List Char) : Option Nat :=
  if l.isEmpty then none else digitsFrom base 0 l

/-- The exponent of ten of a decimal literal as what multiplies and what divides: after its letter, with
its own sign; none written means zero. -/
def exponent : List Char → Option (Nat × Nat)
  | [] => some (0, 0)
  | _ :: '-' :: l => (natural 10 l).map (fun k => (0, k))
  | _ :: l => (natural 10 l).map (fun k => (k, 0))

/-- A decimal literal without its sign: digits, a decimal point and more digits, an exponent of ten, the
last two where they are written. R81 does not say how an exponent is written; that its letter is `e` or `E`
is the model's choice (log entry 18). -/
def decimalOf (negative : Bool) (l : List Char) : Option Literal :=
  let isExp := fun c : Char => c == 'e' || c == 'E'
  let mantissa := l.takeWhile (fun c => !isExp c)
  let whole := mantissa.takeWhile (fun c => c != '.')
  let point := mantissa.dropWhile (fun c => c != '.')
  let fraction := point.drop 1
  if whole.isEmpty || (!point.isEmpty && fraction.isEmpty) then none
  else
    match natural 10 (whole ++ fraction), exponent (l.dropWhile (fun c => !isExp c)) with
    | some digits, some (up, down) =>
      some (.decimal negative (digits * 10 ^ up) (10 ^ (fraction.length + down)))
    | _, _ => none

/-- A real operand (R81): a decimal literal, or `0x` and eight hexadecimal digits. -/
def literalOf : List Char → Option Literal
  | '0' :: 'x' :: l =>
    if l.length = 8 then (natural 16 l).map (fun v => .pattern (BitVec.ofNat 32 v)) else none
  | '-' :: l => decimalOf true l
  | l => decimalOf false l

/-- Every real operand of a line, none where one of them is no literal. -/
def literalsOf : List (List Char) → Option (List Literal)
  | [] => some []
  | part :: parts =>
    match literalOf part, literalsOf parts with
    | some x, some xs => some (x :: xs)
    | _, _ => none

/-- The ten registers (R21, R25). -/
def allRegs : List Reg :=
  [.phase, .freq, .accRe, .accIm, .alphaFilter, .alphaLoop, .betaLoop, .limit, .timeConstant, .status]

/-- The commands that have neither `sel` nor `n` (R73). -/
def plainInstrs : List Instr :=
  [.nop, .reset, .config, .setfreq, .setphase, .step, .sincos, .adjphase, .adjfreq, .filter, .detect, .sample]

/-- The register of a name (R81). -/
def regOf (name : List Char) : Option Reg := allRegs.find? (fun r => (regName r).toList == name)

/-- The command of a mnemonic with the encoded operand it takes, and the operands that are left (R81). -/
def commandOf (name : List Char) (parts : List (List Char)) : Option (Instr × List (List Char)) :=
  match plainInstrs.find? (fun i => i.mnemonic.toList == name), parts with
  | some i, _ => some (i, parts)
  | none, [] => none
  | none, part :: rest =>
    if name = "SETCFG".toList then (regOf part).map (fun r => (.setcfg r, rest))
    else if name = "GET".toList then (regOf part).map (fun r => (.get r, rest))
    else if name = "PROCESS".toList then
      match natural 10 part with
      | some n => if n < 2 ^ 16 then some (.process (BitVec.ofNat 16 n), rest) else none
      | none => none
    else none

/-- `CONSTRUCT` with the real operands written (R82). -/
def constructOf : List Literal → Option (List Command)
  | [rate] => some (construct (literalWord rate) none none)
  | [rate, offset] => some (construct (literalWord rate) (some (literalWord offset)) none)
  | [rate, offset, ph] =>
    some (construct (literalWord rate) (some (literalWord offset)) (some (literalWord ph)))
  | _ => none

/-- The commands of one line (R81, R82): none for a line that is not well formed; no command for a line
that is blank or a comment. -/
def assembleLine (line : String) : Option (List Command) :=
  let l := trim (line.toList.takeWhile (fun c => c != ';'))
  let name := l.takeWhile (fun c => !isBlank c)
  let rest := trim (l.dropWhile (fun c => !isBlank c))
  let parts := if rest.isEmpty then [] else (commaParts rest).map trim
  if l.isEmpty then some []
  else if name = "CONSTRUCT".toList then (literalsOf parts).bind constructOf
  else
    match commandOf name parts with
    | none => none
    | some (i, reals) =>
      match literalsOf reals with
      | none => none
      | some xs => (assemble i xs).map (fun c => [c])

end Sys2Proof.Machine
end

