-- ==== Sys2Proof/Machine/Cores.lean ====
section
/-! DEFINITION. Several cores side by side (R182): the product of independent cores, one per stream, each
with all the state of one core and constants of its own, sharing nothing. -/

namespace Sys2Proof.Machine

/-- The meaning of a command on a core whose parameters are `P`; `exec` is the one at `Config.params`. -/
def execWith (P : Params) (i : Instr) (s : State) : Result :=
  match i with
  | .nop => execNop s
  | .reset => execReset s
  | .setcfg field => setcfgCmd P field s
  | .config => configCmd P s
  | .get r => execGet r s
  | .setfreq => execSetfreq s
  | .setphase => execSetphase s
  | .step => stepCmd P s
  | .sincos => sincosCmd P s
  | .adjphase => adjphaseCmd P s
  | .adjfreq => adjfreqCmd P s
  | .filter => filterCmd P s
  | .detect => detectCmd P s
  | .sample => sampleCmd P s
  | .process n => processCmd P n s

/-- One step of a core whose parameters are `P`; `step` is the one at `Config.params`. -/
def stepWith (P : Params) (s : State) : Result :=
  match s.host with
  | [] => .next s
  | .command c :: rest =>
    match decode c.word with
    | .ok i => execWith P i (latch c (s.setHost rest))
    | .error _ => refuseWord (latch c (s.setHost rest))
  | .writeIbuf i v :: rest => hostWrite P i v (s.setHost rest)
  | .hardReset :: rest => .next (hardReset (s.setHost rest))

/-- One step of core `k` of a list of cores, each going on from a state or stopped. Core `k` has parameters
`P k` of its own (R182 "no register, buffer, flag or constant is shared"), so that capacities and free NaNs
may differ. The spec is silent on the others when one core stops: a stopped core stays stopped, alone, and
the others go on; a core past the end of the list does nothing (the model's choice: log entry 17). -/
def stepCore (P : Nat → Params) (k : Nat) (cores : List Result) : List Result :=
  match cores[k]? with
  | some (.next s) => cores.set k (stepWith (P k) s)
  | some (.fault _) => cores
  | some (.refused _) => cores
  | none => cores

end Sys2Proof.Machine
end

