-- ==== Sys2Proof/Machine/Reference.lean ====
section
/-! DEFINITION. The exact-real instantiation REF of the numerics record (R7), the reals that binary32
patterns denote, and the named hypotheses a claim may make about the black boxes (R8). The machine does not
use this file: a claim about the hardware is a claim about B32 (R7). -/

namespace Sys2Proof.Machine

/-- REF (R7): exact operations on the reals, the real order, the exact constants, the real functions, and
the principal arctangent in `(-π, π]` with `ATAN2_ZERO` still a parameter. R7 gives a quotient by zero no
value; that it is 0 here, as in Lean, is the model's choice (DESIGN CHOICE: log entry 21). -/
noncomputable def ref (atan2Zero : ℝ) : Numerics ℝ where
  fadd _ x y := x + y
  fsub _ x y := x - y
  fmul _ x y := x * y
  fdiv _ x y := x / y
  fneg x := -x
  fgt x y := decide (y < x)
  flt x y := decide (x < y)
  zero := 0
  one := 1
  four := 4
  twoPi := 2 * Real.pi
  halfPi := Real.pi / 2
  sin := Real.sin
  cos := Real.cos
  exp := Real.exp
  atan2 y x := if y = 0 ∧ x = 0 then atan2Zero else Complex.arg ⟨x, y⟩

/-- The real number a finite binary32 pattern denotes (R10). -/
noncomputable def realOf (w : Word) : ℝ := (F32.value w : ℝ) / 2 ^ 149

/-- `w` is the binary32 nearest to `x`, ties to even, an overflow giving the infinity, with the sign of `x`
also where it is a zero (R6; overflow and signs are IEEE 754's: log entry 10). When `x` is 0 it is a zero of
either sign. -/
def RoundsTo (x : ℝ) (w : Word) : Prop :=
  (0 < x → F32.sign w = false) ∧
  (x < 0 → F32.sign w = true) ∧
  ((2 : ℝ) ^ 128 - 2 ^ 103 ≤ x → w = F32.pack false F32.infMag) ∧
  (x ≤ -((2 : ℝ) ^ 128 - 2 ^ 103) → w = F32.pack true F32.infMag) ∧
  (|x| < (2 : ℝ) ^ 128 - 2 ^ 103 →
    F32.isFinite w = true ∧
    ∀ z : Word, F32.isFinite z = true →
      |realOf w - x| ≤ |realOf z - x| ∧
      (|realOf w - x| = |realOf z - x| → realOf z ≠ realOf w → w.getLsbD 0 = false))

/-- `P_SINCOS_TOL` (R8) with the bound `EPS_SINCOS`. -/
def SinCosTol (P : Params) (eps : ℝ) : Prop :=
  ∀ p : Word, F32.isFinite p = true →
    F32.isFinite (P.sin p) = true ∧ |realOf (P.sin p) - Real.sin (realOf p)| ≤ eps ∧
    F32.isFinite (P.cos p) = true ∧ |realOf (P.cos p) - Real.cos (realOf p)| ≤ eps

/-- `P_ATAN2_TOL` (R8) with the bound `EPS_ATAN2`: on the cut a negative zero may take either side. -/
def Atan2Tol (P : Params) (eps : ℝ) : Prop :=
  ∀ y x : Word, F32.isFinite y = true → F32.isFinite x = true →
    ¬(F32.isZero y = true ∧ F32.isZero x = true) →
    F32.isFinite (atan2Of P y x) = true ∧
    (|realOf (atan2Of P y x) - Complex.arg ⟨realOf x, realOf y⟩| ≤ eps ∨
      (F32.isZero y = true ∧ F32.sign y = true ∧ F32.sign x = true ∧
        |realOf (atan2Of P y x) + Real.pi| ≤ eps))

/-- `P_EXP_TOL` (R8) with the bound `EPS_EXP`. -/
def ExpTol (P : Params) (eps : ℝ) : Prop :=
  ∀ t : Word, F32.isFinite t = true → realOf t ≤ 0 →
    F32.isFinite (P.exp t) = true ∧ |realOf (P.exp t) - Real.exp (realOf t)| ≤ eps

/-- `P_EXP_RANGE` (R8): for every `t <= 0`, `-0` and `-inf` included, `0 <= EXP(t) <= 1`. -/
def ExpRange (P : Params) : Prop :=
  ∀ t : Word, F32.isNaN t = false → F32.gt t Config.zero = false →
    F32.isNaN (P.exp t) = false ∧ F32.lt (P.exp t) Config.zero = false ∧
    F32.gt (P.exp t) Config.one = false

/-- The two points of `P_EXACT_POINTS` that the golden value of R137 uses: `SIN(+0) = +0`, `COS(+0) = 1`. -/
def ExactAtZero (P : Params) : Prop := P.sin Config.zero = Config.zero ∧ P.cos Config.zero = Config.one

/-- `P_EXACT_POINTS` (R8): the exact points, and correct rounding on the other finite operands. A real
result that is exactly 0 is `+0` for `ATAN2(+0, x)` with `x > 0` (95_test_vectors.md 2.4); for a `-0`
operand R8 leaves the sign of the zero open, and so does this (log entry 15). -/
def ExactPoints (P : Params) : Prop :=
  ExactAtZero P ∧ P.exp 0xFF800000#32 = Config.zero ∧ P.exp 0x80000000#32 = Config.one ∧
  (∀ p : Word, F32.isFinite p = true → p ≠ Config.zero →
    RoundsTo (Real.sin (realOf p)) (P.sin p) ∧ RoundsTo (Real.cos (realOf p)) (P.cos p)) ∧
  (∀ t : Word, F32.isFinite t = true → t ≠ 0x80000000#32 → RoundsTo (Real.exp (realOf t)) (P.exp t)) ∧
  (∀ y x : Word, F32.isFinite y = true → F32.isFinite x = true →
    ¬(F32.isZero y = true ∧ F32.isZero x = true) →
    (RoundsTo (Complex.arg ⟨realOf x, realOf y⟩) (atan2Of P y x) ∧
      (y = Config.zero → F32.sign x = false → atan2Of P y x = Config.zero)) ∨
      (F32.isZero y = true ∧ F32.sign y = true ∧ F32.sign x = true ∧
        RoundsTo (-Real.pi) (atan2Of P y x)))

end Sys2Proof.Machine
end

