-- ==== Sys2Proof/Safety.lean ====
section
/-! DEFINITION. What claims are stated in: the invariant of the machine, the host's duties (R218), which
command writes which register (R21, R25), and running a stream of samples (R133). -/

namespace Sys2Proof.Machine

/-- The numeric domain of the hardware (R6): B32 with the parameters of the one machine. -/
abbrev hw : Numerics Word := b32 Config.params

/-- `s` with the response of a command that ends normally (R11, R71, R76). -/
def okAnswer (ra rb : Word) (s : State) : State := { s with response := some ⟨0x00#8, ra, rb⟩ }

/-- `s` after a command that raised an error (R172): one flag of `STATUS` set, the code and two zero result
words responded, nothing else changed. -/
def errorAnswer (flag : Word) (code : BitVec 8) (s : State) : State :=
  { s with status := s.status ||| flag, response := some ⟨code, 0#32, 0#32⟩ }

/-- `IBUF` holds the samples `xs`, sample `k` in words `2k` and `2k + 1` (R51). -/
def State.holds (s : State) (xs : List (Cpx Word)) : Prop :=
  ∀ (k : Nat) (x : Cpx Word), xs[k]? = some x →
    s.ibuf.readWord (2 * k) = some x.re ∧ s.ibuf.readWord (2 * k + 1) = some x.im

/-- `OBUF` holds the outputs `ys`, sample `k` in words `2k` and `2k + 1` (R51). -/
def State.emitted (s : State) (ys : List (Cpx Word)) : Prop :=
  ∀ (k : Nat) (y : Cpx Word), ys[k]? = some y →
    hostReadObuf s (2 * k) = some y.re ∧ hostReadObuf s (2 * k + 1) = some y.im

/-- Every word of a buffer is written whole or not at all (R55: "a read returns the whole of one written
word"). -/
def Memory.whole (m : Memory) : Prop :=
  ∀ i j : Nat, j < 4 → (m.getByte (4 * i + j)).isSome = (m.getByte (4 * i)).isSome

/-- What every step keeps: the buffers are in canonical form, hold whole words and stay inside their
`2·MAXN` words (R50, R52); the reserved bits of `STATUS` are zero (R30); before construction the datapath
registers and `ALPHA_FILTER` hold their reset values (R34, R203); a running loop was constructed with a
positive time constant (R153); a response carries one of the five status values and an error response two
zero words (R71, R76). -/
structure State.Inv (s : State) : Prop where
  ibuf_wf : s.ibuf.wf
  obuf_wf : s.obuf.wf
  ibuf_whole : s.ibuf.whole
  obuf_whole : s.obuf.whole
  ibuf_inRange : s.ibuf.inRange (8 * Config.params.maxN)
  obuf_inRange : s.obuf.inRange (8 * Config.params.maxN)
  reserved_zero : s.status &&& ~~~statusMask = 0#32
  unconfigured_reset : s.running = false →
    s.regs.phase = Config.zero ∧ s.regs.freq = Config.zero ∧ s.regs.accRe = Config.zero ∧
    s.regs.accIm = Config.zero ∧ s.regs.alphaFilter = Config.zero
  running_timeConstant : s.running = true → F32.gt s.regs.timeConstant Config.zero = true
  response_legal : ∀ r, s.response = some r →
    r.status.toNat ≤ 4 ∧ (r.status ≠ 0#8 → r.ra = 0#32 ∧ r.rb = 0#32)

/-- The host's duty before `PROCESS n` (R62, R218): every `IBUF` word `0` to `2n − 1` written since
hardware reset. -/
def State.samplesWritten (s : State) (n : Nat) : Prop :=
  ∀ i, i < 2 * n → (s.ibuf.readWord i).isSome = true

/-- The host's next action keeps its duties: no `PROCESS` of unwritten words in `RUNNING` (R62, R218), and no
write outside `IBUF`, where R50 gives no word and stopping is the model's choice (log entry 6). -/
def State.hostDuty (s : State) : Prop :=
  match s.host with
  | [] => True
  | .command c :: _ =>
    match decode c.word with
    | .ok (.process n) =>
      s.running = true → batchLength n ≤ Config.params.maxN → s.samplesWritten (batchLength n)
    | _ => True
  | .writeIbuf i _ :: _ => i < 2 * Config.params.maxN
  | .hardReset :: _ => True

/-- The commands that write a register (the "written by" and "access" columns of R21 and R25). -/
def writtenBy (r : Reg) (i : Instr) : Bool :=
  match r with
  | .phase =>
    match i with
    | .config | .setphase | .step | .adjphase | .sample | .process _ | .reset => true
    | .nop | .setcfg _ | .get _ | .setfreq | .sincos | .adjfreq | .filter | .detect => false
  | .freq =>
    match i with
    | .config | .setfreq | .adjfreq | .sample | .process _ | .reset => true
    | .nop | .setcfg _ | .get _ | .setphase | .step | .sincos | .adjphase | .filter | .detect => false
  | .accRe | .accIm =>
    match i with
    | .config | .filter | .sample | .process _ | .reset => true
    | .nop | .setcfg _ | .get _ | .setfreq | .setphase | .step | .sincos | .adjphase | .adjfreq
    | .detect => false
  | .alphaFilter =>
    match i with
    | .config | .reset => true
    | .nop | .setcfg _ | .get _ | .setfreq | .setphase | .step | .sincos | .adjphase | .adjfreq
    | .filter | .detect | .sample | .process _ => false
  | .alphaLoop =>
    match i with
    | .setcfg f => f == .alphaLoop
    | .reset => true
    | .nop | .config | .get _ | .setfreq | .setphase | .step | .sincos | .adjphase | .adjfreq
    | .filter | .detect | .sample | .process _ => false
  | .betaLoop =>
    match i with
    | .setcfg f => f == .alphaLoop || f == .betaLoop
    | .reset => true
    | .nop | .config | .get _ | .setfreq | .setphase | .step | .sincos | .adjphase | .adjfreq
    | .filter | .detect | .sample | .process _ => false
  | .limit => false
  | .timeConstant =>
    match i with
    | .setcfg f => f == .timeConstant
    | .reset => true
    | .nop | .config | .get _ | .setfreq | .setphase | .step | .sincos | .adjphase | .adjfreq
    | .filter | .detect | .sample | .process _ => false
  | .status => true

/-- The ten commands of R203, refused before construction. -/
def isDatapath : Instr → Bool
  | .setfreq | .setphase | .step | .sincos | .adjphase | .adjfreq | .filter | .detect | .sample => true
  | .process _ => true
  | .nop | .reset | .setcfg _ | .config | .get _ => false

/-- The samples of a stream through the pipeline, in order, from registers `r` with the free choices
numbered from `d` (R130, R133): the registers after the last and the outputs in order. -/
def pipeAll {α : Type} (N : Numerics α) : Nat → Regs α → List (Cpx α) → Regs α × List (Cpx α)
  | _, r, [] => (r, [])
  | d, r, x :: xs =>
    let one := pipe N d r x
    let rest := pipeAll N (d + pipeDraws) one.1 xs
    (rest.1, one.2 :: rest.2)

/-- The loop filter alone on a list of inputs (R111): the accumulator's successive outputs. -/
def filterAll {α : Type} (N : Numerics α) (r : Regs α) : List (Cpx α) → List (Cpx α)
  | [] => []
  | x :: xs =>
    let y := filterOut N 0 r x
    y :: filterAll N (r.setAcc y) xs

/-- Issue one `SAMPLE` per input, in order (R133 (ii)): the state after the last response and the outputs
that were responded, none once a command does not answer. -/
def sampleRun (P : Params) : State → List (Cpx Word) → Option (State × List (Cpx Word))
  | s, [] => some (s, [])
  | s, x :: xs =>
    match sampleCmd P (s.setOperands ⟨x.re, x.im, 0⟩) with
    | .next t =>
      match t.response, sampleRun P t xs with
      | some r, some (u, ys) => some (u, ⟨r.ra, r.rb⟩ :: ys)
      | _, _ => none
    | _ => none

end Sys2Proof.Machine
end

