-- ==== Sys2Proof/Certificates/Slice0/Obligations.lean ====
section
/-! DEFINITION. The statements for the provers. A statement about a value that depends on a free NaN choice
or on a black box holds for every value of it: `hw` is B32 with the machine's uninterpreted parameters. -/

open Sys2Proof Sys2Proof.Machine

/-! ### Encoding -/

/-- Words of the table of 95_test_vectors.md 2.1 decode as it says (R72 to R75, R77). -/
def Obligations.DecodeKnownWords : Prop :=
  decode 0x00000000#32 = .ok .nop ∧ decode 0x02090000#32 = .ok (.setcfg .alphaLoop) ∧
  decode 0x040F0000#32 = .ok (.get .status) ∧ decode 0x12000000#32 = .ok .step ∧
  decode 0x20000000#32 = .ok .filter ∧ decode 0x30000000#32 = .ok .detect ∧
  decode 0x40000000#32 = .ok .sample ∧ decode 0x4100FFFF#32 = .ok (.process 65535#16) ∧
  decode 0x020B0000#32 = .error .selNotLegal ∧ decode 0x12010000#32 = .error .selNotZero ∧
  decode 0x00000001#32 = .error .nNotZero ∧ decode 0x05000000#32 = .error .unassignedOpcode

/-- Every well-formed command is read back from its encoding, with every `sel` and every `n` (R72 to R75). -/
def Obligations.EncodedCommandDecodesToItself : Prop :=
  ∀ i : Instr, i.wellFormed = true → decode (encode i) = .ok i

/-- A word that decodes is the encoding of the well-formed command it decodes to: no bit of a legal word is
ignored (R72, R73). -/
def Obligations.DecodedWordIsItsEncoding : Prop :=
  ∀ (w : Word) (i : Instr), decode w = .ok i → encode i = w ∧ i.wellFormed = true

/-- Every word matches exactly one row of the opcode map, the one of its command, or is illegal and matches
none (R73, R74, R77). -/
def Obligations.DecodedWordMatchesExactlyOneRow : Prop :=
  ∀ w : Word,
    (∀ i, decode w = .ok i → ∃ row ∈ opcodeMap, row.mnemonic = i.mnemonic ∧ row.accepts w = true ∧
      ∀ other ∈ opcodeMap, other.accepts w = true → other = row) ∧
    (∀ e, decode w = .error e → ∀ row ∈ opcodeMap, row.accepts w = false)

/-- A word is illegal in exactly the four cases of R77; every word matches exactly one row of the opcode map
or is illegal; and presenting an illegal one changes nothing of the core but the flag `E_ILL` and answers
code `0x02`. That the operand ports keep the words presented with it is the model's choice (log entry 4). -/
def Obligations.IllegalWordsRaiseIllegalCommand : Prop :=
  (∀ w : Word, (∃ e, decode w = .error e) ↔
    ((opcodeField w).toNat ∉ [0x00, 0x01, 0x02, 0x03, 0x04, 0x10, 0x11, 0x12, 0x13, 0x14, 0x15, 0x20, 0x30,
        0x40, 0x41]) ∨
    ((opcodeField w).toNat ∈ [0x00, 0x01, 0x03, 0x10, 0x11, 0x12, 0x13, 0x14, 0x15, 0x20, 0x30, 0x40, 0x41] ∧
      selField w ≠ 0) ∨
    ((opcodeField w).toNat ∈ [0x00, 0x01, 0x02, 0x03, 0x04, 0x10, 0x11, 0x12, 0x13, 0x14, 0x15, 0x20, 0x30,
        0x40] ∧ nField w ≠ 0) ∨
    ((opcodeField w).toNat = 0x04 ∧
      (selField w).toNat ∉ [0x00, 0x01, 0x02, 0x03, 0x08, 0x09, 0x0A, 0x0B, 0x0C, 0x0F]) ∨
    ((opcodeField w).toNat = 0x02 ∧ (selField w).toNat ∉ [0x09, 0x0A, 0x0C])) ∧
  (∀ w : Word, (opcodeMap.filter (fun row => row.accepts w)).length = 1 ∨ ∃ e, decode w = .error e) ∧
  (∀ (s : State) (c : Command) (rest : List HostAction) (e : Illegal),
    s.host = .command c :: rest → decode c.word = .error e →
    step s = .next (errorAnswer 0x00000004#32 0x02#8 { s with host := rest, operands := c.operands }))

/-! ### The step -/

/-- When the command presented next has a legal word, a step is `exec` of the command it decodes to, with
the operand words on the ports and the host's list moved on (R70, R71). -/
def Obligations.StepRunsTheDecodedCommand : Prop :=
  ∀ (s : State) (c : Command) (rest : List HostAction) (i : Instr),
    s.host = .command c :: rest → decode c.word = .ok i →
    step s = exec i { s with host := rest, operands := c.operands }

/-- With nothing from the host, a step changes nothing: "idle loses no state" (R184). That the last response
stays on its port meanwhile, which is no state of R20, is the model's choice (log entry 16). -/
def Obligations.IdleCoreKeepsItsState : Prop := ∀ s : State, s.host = [] → step s = .next s

/-- A host write of an `IBUF` word that exists replaces that word and nothing else (R50, R52, R55); of one
that does not exist, it stops naming the index (the model's choice: log entry 6). -/
def Obligations.HostWriteReplacesOneWordOfIbuf : Prop :=
  ∀ (s : State) (i : Nat) (v : Word) (rest : List HostAction), s.host = .writeIbuf i v :: rest →
    (i < 2 * Config.params.maxN → ∃ m : Memory, step s = .next { s with ibuf := m, host := rest } ∧
      m.readWord i = some v ∧ (∀ j, j ≠ i → m.readWord j = s.ibuf.readWord j) ∧
      (∀ a, a < 4 * i ∨ 4 * i + 4 ≤ a → m.getByte a = s.ibuf.getByte a)) ∧
    (2 * Config.params.maxN ≤ i → step s = .fault (.noSuchWord i))

/-- Hardware reset leaves the values of R200, with no response pending and no buffer word holding a value,
and the initial state has them too. The host's remaining actions stay: the model's choice (log entry 3). -/
def Obligations.HardwareResetLeavesTheResetValues : Prop :=
  (∀ (s : State) (rest : List HostAction), s.host = .hardReset :: rest → ∃ t, step s = .next t ∧
    t.regs = ⟨0#32, 0#32, 0#32, 0#32, 0#32, 0x3951B717#32, 0x322BCC76#32, 0x36A7C5AC#32⟩ ∧
    readReg t .limit = 0x3FC90FDB#32 ∧ readReg t .status = 0#32 ∧ t.running = false ∧ t.response = none ∧
    (∀ i, t.ibuf.readWord i = none ∧ t.obuf.readWord i = none) ∧ t.host = rest) ∧
  State.reset.regs = ⟨0#32, 0#32, 0#32, 0#32, 0#32, 0x3951B717#32, 0x322BCC76#32, 0x36A7C5AC#32⟩ ∧
  readReg State.reset .limit = 0x3FC90FDB#32 ∧ readReg State.reset .status = 0#32 ∧
  State.reset.running = false ∧ State.reset.response = none ∧
  (∀ i, State.reset.ibuf.readWord i = none ∧ State.reset.obuf.readWord i = none)

/-! ### Errors and lifecycle -/

/-- A command that answers either succeeds with status `0x00`, or raised exactly one error and has done
nothing but set its flag and answer its code (R172); no other response exists (R76). -/
def Obligations.CommandsSucceedOrRaiseOnePreciseError : Prop :=
  ∀ (i : Instr) (s t : State), exec i s = .next t →
    (∃ ra rb, t.response = some ⟨0x00#8, ra, rb⟩) ∨
    (∃ p ∈ [((0x00000002#32 : Word), (0x01#8 : BitVec 8)), (0x00000004#32, 0x02#8), (0x00000008#32, 0x03#8),
      (0x00000010#32, 0x04#8)], t = errorAnswer p.1 p.2 s)

/-- The admission table of R179: a datapath command in `UNCONFIGURED`, and `CONFIG` or a legal `SETCFG` in
`RUNNING`, raise `WrongState` whatever their operands; no other command in either state does. -/
def Obligations.LifecycleStateAdmitsCommands : Prop :=
  ∀ (i : Instr) (s : State),
    (s.running = false → isDatapath i = true → exec i s = .next (errorAnswer 0x00000008#32 0x03#8 s)) ∧
    (s.running = true → i = .config ∨ (∃ f, i = .setcfg f ∧ f.isField = true) →
      exec i s = .next (errorAnswer 0x00000008#32 0x03#8 s)) ∧
    (¬(s.running = false ∧ isDatapath i = true) →
      ¬(s.running = true ∧ (i = .config ∨ ∃ f, i = .setcfg f ∧ f.isField = true)) →
      ∀ t r, exec i s = .next t → t.response = some r → r.status ≠ 0x03#8)

/-- In `RUNNING` a batch longer than the buffers raises `BadLength` and touches nothing, whatever the
capacity (R132, R170); `PROCESS` of the machine is this command at the machine's own capacity. -/
def Obligations.BatchLongerThanBuffersRaisesBadLength : Prop :=
  (∀ (P : Params) (n : BitVec 16) (s : State), s.running = true → P.maxN < n.toNat →
    processCmd P n s = .next (errorAnswer 0x00000010#32 0x04#8 s)) ∧
  (∀ (n : BitVec 16) (s : State), exec (.process n) s = processCmd Config.params n s)

/-- The lifecycle state moves to `RUNNING` only by a `CONFIG` that passes its check and to `UNCONFIGURED`
only by `RESET` or hardware reset (R31). -/
def Obligations.LifecycleMovesOnlyByConfigAndReset : Prop :=
  ∀ s t : State, step s = .next t →
    (s.running = false → t.running = true → ∃ c rest, s.host = .command c :: rest ∧
      decode c.word = .ok .config ∧ hw.fgt c.operands.a Config.zero = true ∧
      hw.fgt s.regs.timeConstant Config.zero = true) ∧
    (s.running = true → t.running = false → (∃ rest, s.host = .hardReset :: rest) ∨
      (∃ c rest, s.host = .command c :: rest ∧ decode c.word = .ok .reset))

/-- The sticky flags are informational: two states that differ only in `STATUS`, with the same `RUN`, give
every command but `GET STATUS` the same effect and the same response, end with the same `RUN`, and have the
same bit of `STATUS` set, or none, or all of it cleared by `RESET` (R30, R173). -/
def Obligations.StickyFlagsInfluenceNoCommand : Prop :=
  ∀ (i : Instr) (s : State), i ≠ .get .status →
    ∃ bit ∈ [(0#32 : Word), 0x00000001#32, 0x00000002#32, 0x00000004#32, 0x00000008#32, 0x00000010#32],
      ∀ w : Word, w.getLsbD 0 = s.status.getLsbD 0 →
        (∃ t t', exec i s = .next t ∧ exec i { s with status := w } = .next t' ∧
          { t' with status := t.status } = t ∧ t'.running = t.running ∧
          ((i = .reset ∧ t.status = 0#32 ∧ t'.status = 0#32) ∨
            (i ≠ .reset ∧ t.status = s.status ||| bit ∧ t'.status = w ||| bit))) ∨
        (∃ f, exec i s = .fault f ∧ exec i { s with status := w } = .fault f)

/-! ### Construction and access -/

/-- `NOP`, the word `0x00000000`, answers and changes nothing (R150). -/
def Obligations.NopChangesNothing : Prop :=
  decode 0x00000000#32 = .ok .nop ∧ ∀ s : State, exec .nop s = .next (okAnswer 0#32 0#32 s)

/-- `RESET` brings every register to its reset value, clears `STATUS` and leaves both buffers (R151, R201).
The operand ports and the draw counter stay: they are no registers of the core. -/
def Obligations.ResetCommandRestoresRegisters : Prop :=
  decode 0x01000000#32 = .ok .reset ∧
  ∀ s : State, exec .reset s = .next (okAnswer 0#32 0#32
    { s with
      regs := ⟨0#32, 0#32, 0#32, 0#32, 0#32, 0x3951B717#32, 0x322BCC76#32, 0x36A7C5AC#32⟩, status := 0#32 })

/-- `SETCFG` in `UNCONFIGURED` writes its field, `ALPHA_LOOP` taking `BETA_LOOP` with it; in `RUNNING` it
raises `WrongState`; a `sel` that is no field raises `IllegalCommand` (R152). -/
def Obligations.SetcfgWritesItsField : Prop :=
  decode 0x02090000#32 = .ok (.setcfg .alphaLoop) ∧ decode 0x020A0000#32 = .ok (.setcfg .betaLoop) ∧
  decode 0x020C0000#32 = .ok (.setcfg .timeConstant) ∧
  ∀ s : State,
    (s.running = false →
      exec (.setcfg .alphaLoop) s = .next (okAnswer 0#32 0#32
        { s with
          regs := { s.regs with
            alphaLoop := s.operands.a,
            betaLoop := hw.fdiv (s.draws + 1) (hw.fmul s.draws s.operands.a s.operands.a) 0x40800000#32 },
          draws := s.draws + 2 }) ∧
      exec (.setcfg .betaLoop) s = .next (okAnswer 0#32 0#32
        { s with regs := { s.regs with betaLoop := s.operands.a }, draws := s.draws + 2 }) ∧
      exec (.setcfg .timeConstant) s = .next (okAnswer 0#32 0#32
        { s with regs := { s.regs with timeConstant := s.operands.a }, draws := s.draws + 2 })) ∧
    (s.running = true → ∀ f, f = .alphaLoop ∨ f = .betaLoop ∨ f = .timeConstant →
      exec (.setcfg f) s = .next (errorAnswer 0x00000008#32 0x03#8 s)) ∧
    (∀ f, f ≠ .alphaLoop → f ≠ .betaLoop → f ≠ .timeConstant →
      exec (.setcfg f) s = .next (errorAnswer 0x00000004#32 0x02#8 s))

/-- `CONFIG` in `UNCONFIGURED` with a positive sample rate and time constant constructs the loop by the
formulas of R153; with either not positive it raises `InvalidConfiguration`; in `RUNNING`, `WrongState`. -/
def Obligations.ConfigConstructsTheLoop : Prop :=
  decode 0x03000000#32 = .ok .config ∧
  ∀ s : State,
    (s.running = false → hw.fgt s.operands.a 0#32 = true → hw.fgt s.regs.timeConstant 0#32 = true →
      exec .config s = .next (okAnswer 0#32 0#32
        { s with
          regs := { s.regs with
            alphaFilter :=
              hw.fsub (s.draws + 2) 0x3F800000#32
                (hw.exp (hw.fneg (hw.fdiv (s.draws + 1) 0x3F800000#32
                  (hw.fmul s.draws s.operands.a s.regs.timeConstant)))),
            freq :=
              hw.fmul (s.draws + 4) (hw.fdiv (s.draws + 3) s.operands.b s.operands.a) 0x40C90FDB#32,
            phase := s.operands.c, accRe := 0#32, accIm := 0#32 },
          status := s.status ||| 0x00000001#32,
          draws := s.draws + 5 })) ∧
    (s.running = false → ¬(hw.fgt s.operands.a 0#32 = true ∧ hw.fgt s.regs.timeConstant 0#32 = true) →
      exec .config s = .next (errorAnswer 0x00000002#32 0x01#8 s)) ∧
    (s.running = true → exec .config s = .next (errorAnswer 0x00000008#32 0x03#8 s))

/-- The test of `CONFIG` accepts exactly the patterns of the positive data, `+inf` among them: it refuses
zeros of either sign, negatives, `-inf` and every NaN (R153 (a), R170). -/
def Obligations.PositiveTestAcceptsExactlyPositiveData : Prop :=
  ∀ a : Word, hw.fgt a 0#32 = true ↔ 0 < a.toNat ∧ a.toNat ≤ 0x7F800000

/-- `GET` answers the register's 32 bits in either lifecycle state and changes nothing (R154): `LIMIT` is
its constant and the reserved bits of `STATUS` read as zero. -/
def Obligations.GetReadsTheRegister : Prop :=
  (∀ p ∈ [((0x04000000#32 : Word), Reg.phase), (0x04010000#32, .freq), (0x04020000#32, .accRe),
      (0x04030000#32, .accIm), (0x04080000#32, .alphaFilter), (0x04090000#32, .alphaLoop),
      (0x040A0000#32, .betaLoop), (0x040B0000#32, .limit), (0x040C0000#32, .timeConstant),
      (0x040F0000#32, .status)], decode p.1 = .ok (.get p.2)) ∧
  ∀ s : State,
    exec (.get .phase) s = .next (okAnswer s.regs.phase 0#32 s) ∧
    exec (.get .freq) s = .next (okAnswer s.regs.freq 0#32 s) ∧
    exec (.get .accRe) s = .next (okAnswer s.regs.accRe 0#32 s) ∧
    exec (.get .accIm) s = .next (okAnswer s.regs.accIm 0#32 s) ∧
    exec (.get .alphaFilter) s = .next (okAnswer s.regs.alphaFilter 0#32 s) ∧
    exec (.get .alphaLoop) s = .next (okAnswer s.regs.alphaLoop 0#32 s) ∧
    exec (.get .betaLoop) s = .next (okAnswer s.regs.betaLoop 0#32 s) ∧
    exec (.get .limit) s = .next (okAnswer 0x3FC90FDB#32 0#32 s) ∧
    exec (.get .timeConstant) s = .next (okAnswer s.regs.timeConstant 0#32 s) ∧
    exec (.get .status) s = .next (okAnswer (s.status &&& 0x0000001F#32) 0#32 s)

/-- `CONSTRUCT` from any state is `RESET` then `CONFIG` with the assembler's defaults (R82): two steps on,
with a positive sample rate, every register holds what R153 constructs from the default time constant, the
gains are the default ones and no flag is set. -/
def Obligations.ConstructBuildsAFreshLoop : Prop :=
  ∀ (s : State) (rate : Word) (offset ph : Option Word) (rest : List HostAction),
    s.host = (construct rate offset ph).map HostAction.command ++ rest →
    hw.fgt rate 0#32 = true →
    ∃ t u, step s = .next t ∧ step t = .next u ∧ u.host = rest ∧ u.status = 0x00000001#32 ∧
      u.response = some ⟨0x00#8, 0#32, 0#32⟩ ∧ u.ibuf = s.ibuf ∧ u.obuf = s.obuf ∧
      u.regs.phase = ph.getD 0#32 ∧
      u.regs.alphaFilter = hw.fsub (s.draws + 2) 0x3F800000#32 (hw.exp (hw.fneg
        (hw.fdiv (s.draws + 1) 0x3F800000#32 (hw.fmul s.draws rate 0x36A7C5AC#32)))) ∧
      u.regs.freq = hw.fmul (s.draws + 4)
        (hw.fdiv (s.draws + 3) (offset.getD 0xCA243EE0#32) rate) 0x40C90FDB#32 ∧
      u.regs.accRe = 0#32 ∧ u.regs.accIm = 0#32 ∧ u.regs.alphaLoop = 0x3951B717#32 ∧
      u.regs.betaLoop = 0x322BCC76#32 ∧ u.regs.timeConstant = 0x36A7C5AC#32

/-! ### Oscillator -/

/-- `SETFREQ` and `SETPHASE` store operand `a` bit for bit in `RUNNING`, else `WrongState` (R91, R92). -/
def Obligations.SetfreqAndSetphaseStoreTheOperand : Prop :=
  decode 0x10000000#32 = .ok .setfreq ∧ decode 0x11000000#32 = .ok .setphase ∧
  ∀ s : State,
    (s.running = true →
      exec .setfreq s = .next (okAnswer 0#32 0#32 { s with regs := { s.regs with freq := s.operands.a } }) ∧
      exec .setphase s = .next (okAnswer 0#32 0#32 { s with regs := { s.regs with phase := s.operands.a } })) ∧
    (s.running = false →
      exec .setfreq s = .next (errorAnswer 0x00000008#32 0x03#8 s) ∧
      exec .setphase s = .next (errorAnswer 0x00000008#32 0x03#8 s))

/-- `STEP` adds `FREQ` to `PHASE` by one rounded addition, with no wrap (R93). -/
def Obligations.StepAdvancesThePhase : Prop :=
  decode 0x12000000#32 = .ok .step ∧
  ∀ s : State,
    (s.running = true → exec .step s = .next (okAnswer 0#32 0#32
      { s with
        regs := { s.regs with phase := hw.fadd s.draws s.regs.phase s.regs.freq }, draws := s.draws + 1 })) ∧
    (s.running = false → exec .step s = .next (errorAnswer 0x00000008#32 0x03#8 s))

/-- `SINCOS` answers sine and cosine of the stored phase and writes no state (R94). -/
def Obligations.SincosReadsThePhase : Prop :=
  decode 0x13000000#32 = .ok .sincos ∧
  ∀ s : State,
    (s.running = true →
      exec .sincos s = .next (okAnswer (hw.sin s.regs.phase) (hw.cos s.regs.phase) s)) ∧
    (s.running = false → exec .sincos s = .next (errorAnswer 0x00000008#32 0x03#8 s))

/-- `ADJPHASE` and `ADJFREQ` add operand `a`, unclamped, each to its own register (R95, R96). -/
def Obligations.AdjustmentsAddTheOperand : Prop :=
  decode 0x14000000#32 = .ok .adjphase ∧ decode 0x15000000#32 = .ok .adjfreq ∧
  ∀ s : State,
    (s.running = true →
      exec .adjphase s = .next (okAnswer 0#32 0#32
        { s with
          regs := { s.regs with phase := hw.fadd s.draws s.regs.phase s.operands.a },
          draws := s.draws + 1 }) ∧
      exec .adjfreq s = .next (okAnswer 0#32 0#32
        { s with
          regs := { s.regs with freq := hw.fadd s.draws s.regs.freq s.operands.a },
          draws := s.draws + 1 })) ∧
    (s.running = false →
      exec .adjphase s = .next (errorAnswer 0x00000008#32 0x03#8 s) ∧
      exec .adjfreq s = .next (errorAnswer 0x00000008#32 0x03#8 s))

/-- Two `ADJPHASE` add as one of the sum in REF, and so for `ADJFREQ`, and not in B32: at `1.0` two addends
of 2^-24 are each rounded away while their sum is not (R97). -/
def Obligations.AdjustmentsAreAdditiveInRefAndNotInB32 : Prop :=
  (∀ (z : ℝ) (d : Nat) (r : Regs ℝ) (a b : ℝ),
    adjustPhase (ref z) (d + 1) (adjustPhase (ref z) d r a) b = adjustPhase (ref z) d r (a + b) ∧
    adjustFreq (ref z) (d + 1) (adjustFreq (ref z) d r a) b = adjustFreq (ref z) d r (a + b)) ∧
  (∀ (d : Nat) (r : Regs Word), r.phase = 0x3F800000#32 → r.freq = 0x3F800000#32 →
    hw.fadd d 0x33800000#32 0x33800000#32 = 0x34000000#32 ∧
    (adjustPhase hw (d + 1) (adjustPhase hw d r 0x33800000#32) 0x33800000#32).phase = 0x3F800000#32 ∧
    (adjustPhase hw d r 0x34000000#32).phase = 0x3F800001#32 ∧
    (adjustFreq hw (d + 1) (adjustFreq hw d r 0x33800000#32) 0x33800000#32).freq = 0x3F800000#32 ∧
    (adjustFreq hw d r 0x34000000#32).freq = 0x3F800001#32)

/-- Beyond 8192 radians no addend up to the largest proportional correction changes the phase (R210 (a)).
At exactly 8192 a correction towards zero still does: the spacing below a power of two is half the spacing
above it, so R210's "once |PHASE| >= 8192" is read as strictly beyond (log entry 8). -/
def Obligations.CorrectionsVanishBeyond8192 : Prop :=
  (∀ (d : Nat) (p x : Word), F32.isFinite p = true → 0x46000000 < F32.magField p →
    F32.magField x ≤ 0x39A4B5BE → hw.fadd d p x = p) ∧
  (∀ d : Nat, hw.fadd d 0x46000000#32 0xB9A4B5BE#32 = 0x45FFFFFF#32)

/-! ### Loop filter -/

/-- `FILTER` answers the recurrence of R110 with its order of operations and leaves it in `ACC`. -/
def Obligations.FilterAppliesTheRecurrence : Prop :=
  decode 0x20000000#32 = .ok .filter ∧
  ∀ s : State,
    (s.running = true →
      let d := s.draws
      let al := s.regs.alphaFilter
      let om := hw.fsub d 0x3F800000#32 al
      let yRe := hw.fadd (d + 5) (hw.fmul (d + 1) al s.operands.a) (hw.fmul (d + 3) om s.regs.accRe)
      let yIm := hw.fadd (d + 6) (hw.fmul (d + 2) al s.operands.b) (hw.fmul (d + 4) om s.regs.accIm)
      exec .filter s = .next (okAnswer yRe yIm
        { s with regs := { s.regs with accRe := yRe, accIm := yIm }, draws := d + 7 })) ∧
    (s.running = false → exec .filter s = .next (errorAnswer 0x00000008#32 0x03#8 s))

/-- The closed-form step response holds exactly in REF at every `n >= 1` (R111). -/
def Obligations.FilterStepResponseInRef : Prop :=
  ∀ (z : ℝ) (r : Regs ℝ) (x : Cpx ℝ) (n : Nat), r.accRe = 0 → r.accIm = 0 → 1 ≤ n →
    (filterAll (ref z) r (List.replicate n x))[n - 1]? =
      some ⟨x.re * (1 - (1 - r.alphaFilter) ^ n), x.im * (1 - (1 - r.alphaFilter) ^ n)⟩

/-- With a coefficient strictly between 0 and 1, a bounded input gives outputs with the same bound in REF
(R112). -/
def Obligations.FilterIsBoundedInRef : Prop :=
  ∀ (z M : ℝ) (r : Regs ℝ) (xs : List (Cpx ℝ)), 0 < r.alphaFilter → r.alphaFilter < 1 →
    r.accRe = 0 → r.accIm = 0 → 0 ≤ M → (∀ x ∈ xs, x.re ^ 2 + x.im ^ 2 ≤ M ^ 2) →
    ∀ y ∈ filterAll (ref z) r xs, y.re ^ 2 + y.im ^ 2 ≤ M ^ 2

/-- The smoothing coefficient that `CONFIG` computes is strictly between 0 and 1 in REF for every positive
sample rate and time constant (R26, R155). -/
def Obligations.AlphaFilterIsInsideTheUnitIntervalInRef : Prop :=
  ∀ (z : ℝ) (d : Nat) (rate tc : ℝ), 0 < rate → 0 < tc →
    0 < alphaFilterOf (ref z) d rate tc ∧ alphaFilterOf (ref z) d rate tc < 1

/-- In B32, under `P_EXP_RANGE` alone, the coefficient is a number from 0 to 1, both ends included (R155). -/
def Obligations.AlphaFilterIsInTheUnitIntervalInB32 : Prop :=
  ∀ (P : Params) (d : Nat) (rate tc : Word), ExpRange P →
    (b32 P).fgt rate 0#32 = true → (b32 P).fgt tc 0#32 = true →
    F32.isNaN (alphaFilterOf (b32 P) d rate tc) = false ∧
    (b32 P).flt (alphaFilterOf (b32 P) d rate tc) 0#32 = false ∧
    (b32 P).fgt (alphaFilterOf (b32 P) d rate tc) 0x3F800000#32 = false

/-! ### Phase detector -/

/-- `DETECT` answers the arctangent, imaginary part first, saturated to `LIMIT`, and writes no state; of two
zeros the arctangent is `ATAN2_ZERO` of their signs, imaginary part first (R120, R5). -/
def Obligations.DetectAnswersTheSaturatedArctangent : Prop :=
  decode 0x30000000#32 = .ok .detect ∧
  ∀ s : State,
    (s.running = true →
      let x := hw.atan2 s.operands.b s.operands.a
      let e :=
        if hw.fgt x 0x3FC90FDB#32 = true then 0x3FC90FDB#32
        else if hw.flt x 0xBFC90FDB#32 = true then 0xBFC90FDB#32 else x
      exec .detect s = .next (okAnswer e 0#32 s)) ∧
    (s.running = true → F32.isZero s.operands.a = true → F32.isZero s.operands.b = true →
      let x := Config.atan2Zero (F32.sign s.operands.b) (F32.sign s.operands.a)
      let e :=
        if hw.fgt x 0x3FC90FDB#32 = true then 0x3FC90FDB#32
        else if hw.flt x 0xBFC90FDB#32 = true then 0xBFC90FDB#32 else x
      exec .detect s = .next (okAnswer e 0#32 s)) ∧
    (s.running = false → exec .detect s = .next (errorAnswer 0x00000008#32 0x03#8 s))

/-- Whenever the arctangent is not a NaN the detector's result lies between `-LIMIT` and `LIMIT`, and past
a bound it is exactly that bound, whatever the primitive (R121). -/
def Obligations.DetectedErrorIsBounded : Prop :=
  ∀ (P : Params) (z : Cpx Word), F32.isNaN (atan2Of P z.im z.re) = false →
    F32.isNaN (detectPhase (b32 P) z) = false ∧
    (b32 P).fgt (detectPhase (b32 P) z) 0x3FC90FDB#32 = false ∧
    (b32 P).flt (detectPhase (b32 P) z) 0xBFC90FDB#32 = false ∧
    ((b32 P).fgt (atan2Of P z.im z.re) 0x3FC90FDB#32 = true → detectPhase (b32 P) z = 0x3FC90FDB#32) ∧
    ((b32 P).flt (atan2Of P z.im z.re) 0xBFC90FDB#32 = true → detectPhase (b32 P) z = 0xBFC90FDB#32)

/-! ### Loop controller -/

/-- `SAMPLE` runs the six stages of R130 in their order, answers the product of stage 2 and leaves the
feedback of stage 6 in `PHASE` and `FREQ` (R131). -/
def Obligations.SampleRunsTheSixStages : Prop :=
  decode 0x40000000#32 = .ok .sample ∧
  ∀ s : State,
    (s.running = true →
      let d := s.draws
      let r := s.regs
      let a := s.operands.a
      let b := s.operands.b
      let ph := hw.fadd d r.phase r.freq
      let sn := hw.sin ph
      let cs := hw.cos ph
      let outRe := hw.fsub (d + 3) (hw.fmul (d + 1) a sn) (hw.fmul (d + 2) b cs)
      let outIm := hw.fadd (d + 6) (hw.fmul (d + 4) a cs) (hw.fmul (d + 5) b sn)
      let om := hw.fsub (d + 7) 0x3F800000#32 r.alphaFilter
      let fRe := hw.fadd (d + 12) (hw.fmul (d + 8) r.alphaFilter outRe) (hw.fmul (d + 10) om r.accRe)
      let fIm := hw.fadd (d + 13) (hw.fmul (d + 9) r.alphaFilter outIm) (hw.fmul (d + 11) om r.accIm)
      let x := hw.atan2 fIm fRe
      let e :=
        if hw.fgt x 0x3FC90FDB#32 = true then 0x3FC90FDB#32
        else if hw.flt x 0xBFC90FDB#32 = true then 0xBFC90FDB#32 else x
      exec .sample s = .next (okAnswer outRe outIm
        { s with
          regs := { r with
            phase := hw.fadd (d + 15) ph (hw.fmul (d + 14) r.alphaLoop e),
            freq := hw.fadd (d + 17) r.freq (hw.fmul (d + 16) r.betaLoop e),
            accRe := fRe, accIm := fIm },
          draws := d + 18 })) ∧
    (s.running = false → exec .sample s = .next (errorAnswer 0x00000008#32 0x03#8 s))

/-- `PROCESS n` in `RUNNING` with `n <= MAXN` and its samples in `IBUF` completes: the registers and the
outputs are those of the pipeline over the samples in order, the outputs stand in `OBUF` from word 0 on, and
`OBUF` beyond them, `IBUF` and everything else are as before (R132). -/
def Obligations.ProcessRunsThePipelineOverTheBatch : Prop :=
  ∀ (s : State) (n : BitVec 16) (xs : List (Cpx Word)), s.running = true →
    n.toNat ≤ Config.params.maxN → xs.length = n.toNat → s.holds xs →
    ∃ m : Memory,
      exec (.process n) s = .next (okAnswer 0#32 0#32
        { s with
          regs := (pipeAll hw s.draws s.regs xs).1, obuf := m, draws := s.draws + 18 * n.toNat }) ∧
      (∀ k y, (pipeAll hw s.draws s.regs xs).2[k]? = some y →
        m.readWord (2 * k) = some y.re ∧ m.readWord (2 * k + 1) = some y.im) ∧
      (pipeAll hw s.draws s.regs xs).2.length = n.toNat ∧
      (∀ a, 8 * n.toNat ≤ a → m.getByte a = s.obuf.getByte a)

/-- `PROCESS n` that meets an `IBUF` word nothing has written stops, naming the first such word (R62). -/
def Obligations.ProcessFaultsOnTheFirstUnwrittenWord : Prop :=
  ∀ (s : State) (n : BitVec 16) (j : Nat), s.running = true → n.toNat ≤ Config.params.maxN →
    j < 2 * n.toNat → s.ibuf.readWord j = none → (∀ i, i < j → (s.ibuf.readWord i).isSome = true) →
    exec (.process n) s = .fault (.unwrittenWord j)

/-- Batch invariance (R133): one `PROCESS`, one `SAMPLE` per sample, and two `PROCESS` with `IBUF` reloaded
in between (on states that share registers, draws and nothing else) leave the same registers and give the
same outputs, bit for bit. The free NaN choices are numbered alike in all three (log entry 2). -/
def Obligations.BatchingDoesNotChangeTheOutputs : Prop :=
  ∀ (s : State) (n : BitVec 16) (xs : List (Cpx Word)), s.running = true →
    n.toNat ≤ Config.params.maxN → xs.length = n.toNat → s.holds xs →
    ∃ (t : State) (ys : List (Cpx Word)),
      exec (.process n) s = .next t ∧ ys.length = n.toNat ∧ t.emitted ys ∧
      (∃ u, sampleRun Config.params s xs = some (u, ys) ∧ u.regs = t.regs ∧ u.draws = t.draws) ∧
      (∀ (n1 n2 : BitVec 16) (s1 : State), n1.toNat + n2.toNat = n.toNat → s1.running = true →
        s1.regs = s.regs → s1.draws = s.draws → s1.holds (xs.take n1.toNat) →
        ∃ t1, exec (.process n1) s1 = .next t1 ∧ t1.emitted (ys.take n1.toNat) ∧
          ∀ s2 : State, s2.running = true → s2.regs = t1.regs → s2.draws = t1.draws →
            s2.holds (xs.drop n1.toNat) →
            ∃ t2, exec (.process n2) s2 = .next t2 ∧ t2.regs = t.regs ∧ t2.draws = t.draws ∧
              t2.emitted (ys.drop n1.toNat))

/-- Hand sequencing (R134): `STEP`, `SINCOS`, the host's product, `FILTER`, `DETECT`, the host's two gains,
`ADJPHASE`, `ADJFREQ` end in the registers that one `SAMPLE` leaves, and the host's product is its response,
whatever NaNs the host's own arithmetic would draw, provided `SAMPLE` leaves no NaN in `PHASE`, `FREQ` or
`ACC` (which NaN an operation returns is open, log entry 2, so with a NaN the two may differ). -/
def Obligations.HandSequencingAgreesWithSample : Prop :=
  ∀ (P : Params) (s : State) (a b : Word) (d1 d2 d3 : Nat), s.running = true →
    ∃ s1 s2 s3 s4 s5 s6 u : State, ∃ sn cs fRe fIm e : Word,
      stepCmd P s = .next s1 ∧
      sincosCmd P s1 = .next s2 ∧ s2.response = some ⟨0x00#8, sn, cs⟩ ∧
      filterCmd P (s2.setOperands ⟨((b32 P).cmul d1 ⟨a, b⟩ ⟨sn, cs⟩).re,
        ((b32 P).cmul d1 ⟨a, b⟩ ⟨sn, cs⟩).im, 0#32⟩) = .next s3 ∧
      s3.response = some ⟨0x00#8, fRe, fIm⟩ ∧
      detectCmd P (s3.setOperands ⟨fRe, fIm, 0#32⟩) = .next s4 ∧ s4.response = some ⟨0x00#8, e, 0#32⟩ ∧
      adjphaseCmd P (s4.setOperands ⟨(b32 P).fmul d2 (readReg s4 .alphaLoop) e, 0#32, 0#32⟩) = .next s5 ∧
      adjfreqCmd P (s5.setOperands ⟨(b32 P).fmul d3 (readReg s5 .betaLoop) e, 0#32, 0#32⟩) = .next s6 ∧
      sampleCmd P (s.setOperands ⟨a, b, 0#32⟩) = .next u ∧
      (F32.isNaN u.regs.phase = false → F32.isNaN u.regs.freq = false → F32.isNaN u.regs.accRe = false →
        F32.isNaN u.regs.accIm = false →
        s6.regs = u.regs ∧
        u.response = some ⟨0x00#8, ((b32 P).cmul d1 ⟨a, b⟩ ⟨sn, cs⟩).re,
          ((b32 P).cmul d1 ⟨a, b⟩ ⟨sn, cs⟩).im⟩)

/-- The output of a sample depends on the state before it only through `PHASE` and `FREQ` (and the free
choices): accumulator, coefficients and gains do not reach it (R135). -/
def Obligations.OutputIgnoresTheFeedbackState : Prop :=
  ∀ s1 s2 : State, s1.running = true → s2.running = true → s1.regs.phase = s2.regs.phase →
    s1.regs.freq = s2.regs.freq → s1.operands.a = s2.operands.a → s1.operands.b = s2.operands.b →
    s1.draws = s2.draws →
    ∃ t1 t2, exec .sample s1 = .next t1 ∧ exec .sample s2 = .next t2 ∧ t1.response = t2.response

/-- In REF the output is `j · input · e^(−j·phi)` with `phi` the phase after stage 1: sine in the real part
of the multiplier (R136). -/
def Obligations.OutputIsTheInputRotatedInRef : Prop :=
  ∀ (z : ℝ) (d : Nat) (r : Regs ℝ) (x : Cpx ℝ),
    (⟨(pipe (ref z) d r x).2.re, (pipe (ref z) d r x).2.im⟩ : ℂ) =
      Complex.I * ⟨x.re, x.im⟩ * Complex.exp (-(Complex.I * ((r.phase + r.freq : ℝ) : ℂ)))

/-- The first sample after construction (R137): with `SIN(+0) = +0` and `COS(+0) = 1`, zero offset and zero
phase, `(1, 0)` in gives `(0, 1)` out; in general the phase is stepped once before it is first used. -/
def Obligations.FirstSampleIsAQuarterTurn : Prop :=
  (∀ (P : Params) (s : State), ExactAtZero P → s.running = false →
    (b32 P).fgt s.operands.a 0#32 = true → (b32 P).fgt s.regs.timeConstant 0#32 = true →
    s.operands.b = 0#32 → s.operands.c = 0#32 →
    ∃ t u, configCmd P s = .next t ∧
      sampleCmd P (t.setOperands ⟨0x3F800000#32, 0#32, 0#32⟩) = .next u ∧
      u.response = some ⟨0x00#8, 0#32, 0x3F800000#32⟩) ∧
  (∀ (P : Params) (s : State), s.running = true →
    ∃ t, sampleCmd P s = .next t ∧ t.response = some ⟨0x00#8,
      ((b32 P).cmul (s.draws + 1) (opAB s) ⟨P.sin ((b32 P).fadd s.draws s.regs.phase s.regs.freq),
        P.cos ((b32 P).fadd s.draws s.regs.phase s.regs.freq)⟩).re,
      ((b32 P).cmul (s.draws + 1) (opAB s) ⟨P.sin ((b32 P).fadd s.draws s.regs.phase s.regs.freq),
        P.cos ((b32 P).fadd s.draws s.regs.phase s.regs.freq)⟩).im⟩)

/-- The lock point is a fixed point of the pipeline in REF (R138): for the input `A·e^(j·theta)`, a phase
a quarter turn ahead after stage 1 and an accumulator `(A, 0)`, the error is zero, the output is `(A, 0)`,
and `FREQ` and `ACC` are carried to themselves. -/
def Obligations.LockIsAFixedPointInRef : Prop :=
  ∀ (z A theta : ℝ) (d : Nat) (r : Regs ℝ), 0 < A → r.phase + r.freq = theta + Real.pi / 2 →
    r.accRe = A → r.accIm = 0 →
    pipe (ref z) d r ⟨A * Real.cos theta, A * Real.sin theta⟩ =
      ({ r with phase := theta + Real.pi / 2 }, ⟨A, 0⟩)

/-- One sample leaves the coefficients as they are and, with the reset gains and whenever the error that the
detector gives for the new accumulator is no NaN, adds to the stepped `PHASE` and to `FREQ` one correction
each, the gain's product with the error, no larger in magnitude than the product with `LIMIT` (R139). -/
def Obligations.FeedbackOfOneSampleIsBounded : Prop :=
  ∀ (P : Params) (d : Nat) (r : Regs Word) (x : Cpx Word),
    let t := (pipe (b32 P) d r x).1
    let e := detectPhase (b32 P) ⟨t.accRe, t.accIm⟩
    t.alphaFilter = r.alphaFilter ∧ t.alphaLoop = r.alphaLoop ∧ t.betaLoop = r.betaLoop ∧
    t.timeConstant = r.timeConstant ∧
    (r.alphaLoop = 0x3951B717#32 → r.betaLoop = 0x322BCC76#32 → F32.isNaN e = false →
      ∃ dp df : Word,
        t.phase = (b32 P).fadd (d + 15) ((b32 P).fadd d r.phase r.freq) dp ∧
        t.freq = (b32 P).fadd (d + 17) r.freq df ∧
        dp = (b32 P).fmul (d + 14) r.alphaLoop e ∧ df = (b32 P).fmul (d + 16) r.betaLoop e ∧
        F32.magField dp ≤ 0x39A4B5BE ∧ F32.magField df ≤ 0x3286EE2D)

/-! ### Frames -/

/-- Every command leaves every register unchanged that R21 and R25 do not list it as writing, `STATUS`
apart (its frame is stated separately): on success and on an error alike. -/
def Obligations.RegistersChangeOnlyByTheirWriters : Prop :=
  ∀ (i : Instr) (s t : State) (r : Reg), exec i s = .next t → writtenBy r i = false →
    readReg t r = readReg s r

/-- `STATUS` (R30): `RESET` clears it; no other command clears a bit; on success only `CONFIG` changes it,
by setting `RUN`. -/
def Obligations.StatusChangesOnlyAsStated : Prop :=
  ∀ (i : Instr) (s t : State), exec i s = .next t →
    (i = .reset → t.status = 0#32) ∧
    (i ≠ .reset → ∀ b, s.status.getLsbD b = true → t.status.getLsbD b = true) ∧
    (i ≠ .reset → ∀ r, t.response = some r → r.status = 0x00#8 →
      t.status = if i = .config then s.status ||| 0x00000001#32 else s.status)

/-- Buffers (R132, R151, R215): no command but `PROCESS` changes a byte of either buffer; `PROCESS n` changes
no byte of `IBUF` and none of `OBUF` from offset `8n` on, and none at all when it raises an error. That every
command leaves the host's list and the operand ports is the model's choice (log entries 3 and 4). -/
def Obligations.BuffersChangeOnlyByProcess : Prop :=
  ∀ (i : Instr) (s t : State), exec i s = .next t →
    t.host = s.host ∧ t.operands = s.operands ∧
    (∀ a, t.ibuf.getByte a = s.ibuf.getByte a) ∧
    ((∀ n, i ≠ .process n) → ∀ a, t.obuf.getByte a = s.obuf.getByte a) ∧
    (∀ n, i = .process n → ∀ a, 8 * n.toNat ≤ a → t.obuf.getByte a = s.obuf.getByte a) ∧
    (∀ r, t.response = some r → r.status ≠ 0x00#8 → ∀ a, t.obuf.getByte a = s.obuf.getByte a)

/-! ### Whole machine -/

/-- Every step keeps the invariant of `State.Inv`, from every state that has it. -/
def Obligations.StepKeepsTheInvariant : Prop := ∀ s t : State, s.Inv → step s = .next t → t.Inv

/-- The state after hardware reset has the invariant. -/
def Obligations.ResetHasTheInvariant : Prop := State.reset.Inv

/-- A step completes exactly when the host keeps its duties; it is never refused. The duty before `PROCESS`
is R62's and R218's. That a host write of an `IBUF` index of `2·MAXN` or more, which R50 does not give, does
not complete is the model's choice (log entry 6). -/
def Obligations.StepCompletesExactlyUnderTheHostDuties : Prop :=
  ∀ s : State, ((∃ t, step s = .next t) ↔ s.hostDuty) ∧ ∀ r, step s ≠ .refused r

/-- A NaN in a lane of the accumulator stays there: nothing but `RESET` and `CONFIG` clears it (R209). -/
def Obligations.NaNAccumulatorNeverRecovers : Prop :=
  ∀ (i : Instr) (s t : State), i ≠ .reset → i ≠ .config → exec i s = .next t →
    (F32.isNaN s.regs.accRe = true → F32.isNaN t.regs.accRe = true) ∧
    (F32.isNaN s.regs.accIm = true → F32.isNaN t.regs.accIm = true)

/-- A NaN in either part of a sample makes both parts of the output and of the accumulator NaNs, and the
response is still a success (R177, R209). -/
def Obligations.NaNSamplePoisonsTheAccumulator : Prop :=
  ∀ s : State, s.running = true → F32.isNaN s.operands.a = true ∨ F32.isNaN s.operands.b = true →
    ∃ t ra rb, exec .sample s = .next t ∧ t.response = some ⟨0x00#8, ra, rb⟩ ∧
      F32.isNaN ra = true ∧ F32.isNaN rb = true ∧
      F32.isNaN t.regs.accRe = true ∧ F32.isNaN t.regs.accIm = true

/-- Independent cores (R182), each with parameters of its own: a step of a core that goes on is that core's
own step, on a core with the machine's parameters it is `step`; it leaves every other core as it was,
running or stopped, and steps of two cores commute. That a core that stops does so alone is the model's
choice (log entry 17). -/
def Obligations.CoresAreIndependent : Prop :=
  (∀ s : State, stepWith Config.params s = step s) ∧
  ∀ (P : Nat → Params) (j : Nat) (cores : List Result),
    (∀ s : State, cores[j]? = some (.next s) → (stepCore P j cores)[j]? = some (stepWith (P j) s)) ∧
    ∀ k : Nat, j ≠ k →
      (stepCore P j cores)[k]? = cores[k]? ∧
      stepCore P k (stepCore P j cores) = stepCore P j (stepCore P k cores)

/-! ### Arithmetic -/

/-- `fadd` and `fsub` of finite operands are the exact sum and difference, correctly rounded (R6); one that
is exactly 0 is `-0` only when both terms are `-0`. Overflow and the signs of zeros are IEEE 754's, which
the spec does not reproduce (log entry 10). -/
def Obligations.AdditionIsCorrectlyRounded : Prop :=
  ∀ (d : Nat) (a b : Word), F32.isFinite a = true → F32.isFinite b = true →
    RoundsTo (realOf a + realOf b) (hw.fadd d a b) ∧
    (realOf a + realOf b = 0 →
      hw.fadd d a b = if F32.sign a = true ∧ F32.sign b = true then 0x80000000#32 else 0x00000000#32) ∧
    RoundsTo (realOf a - realOf b) (hw.fsub d a b) ∧
    (realOf a - realOf b = 0 →
      hw.fsub d a b = if F32.sign a = true ∧ F32.sign b = false then 0x80000000#32 else 0x00000000#32)

/-- `fmul` of finite operands is the exact product, correctly rounded (R6), its sign the exclusive or of the
signs also where it is a zero. Overflow and signs are IEEE 754's (log entry 10). -/
def Obligations.MultiplicationIsCorrectlyRounded : Prop :=
  ∀ (d : Nat) (a b : Word), F32.isFinite a = true → F32.isFinite b = true →
    RoundsTo (realOf a * realOf b) (hw.fmul d a b) ∧
    F32.sign (hw.fmul d a b) = (F32.sign a ^^ F32.sign b)

/-- `fdiv` of finite operands, the divisor not zero, is the exact quotient, correctly rounded (R6), its sign
the exclusive or of the signs also where it is a zero; with a zero divisor and a dividend that is not zero
it is the infinity with that sign. All but the rounding is IEEE 754's (log entry 10). -/
def Obligations.DivisionIsCorrectlyRounded : Prop :=
  ∀ (d : Nat) (a b : Word), F32.isFinite a = true → F32.isFinite b = true →
    (F32.isZero b = false →
      RoundsTo (realOf a / realOf b) (hw.fdiv d a b) ∧
      F32.sign (hw.fdiv d a b) = (F32.sign a ^^ F32.sign b)) ∧
    (F32.isZero b = true → F32.isZero a = false →
      hw.fdiv d a b = if F32.sign a = F32.sign b then 0x7F800000#32 else 0xFF800000#32)

/-- The results with an infinite operand that are no NaN (R6; they are IEEE 754's, which the spec does not
reproduce: log entry 10): an infinity absorbs a sum it does not cancel, multiplies and divides by the signs,
and divides a finite datum to a zero. -/
def Obligations.InfiniteOperandsGiveTheStandardResults : Prop :=
  ∀ (d : Nat) (a b : Word), F32.isNaN a = false → F32.isNaN b = false →
    (F32.isInf a = true → F32.isInf b = false ∨ F32.sign a = F32.sign b → hw.fadd d a b = a) ∧
    (F32.isInf b = true → F32.isInf a = false ∨ F32.sign a = F32.sign b → hw.fadd d a b = b) ∧
    (F32.isInf a = true → F32.isInf b = false ∨ F32.sign a ≠ F32.sign b → hw.fsub d a b = a) ∧
    (F32.isInf b = true → F32.isInf a = false ∨ F32.sign a ≠ F32.sign b →
      hw.fsub d a b = b ^^^ 0x80000000#32) ∧
    ((F32.isInf a = true ∧ F32.isZero b = false) ∨ (F32.isInf b = true ∧ F32.isZero a = false) →
      hw.fmul d a b = if F32.sign a = F32.sign b then 0x7F800000#32 else 0xFF800000#32) ∧
    (F32.isInf a = true → F32.isInf b = false →
      hw.fdiv d a b = if F32.sign a = F32.sign b then 0x7F800000#32 else 0xFF800000#32) ∧
    (F32.isInf a = false → F32.isInf b = true →
      hw.fdiv d a b = if F32.sign a = F32.sign b then 0x00000000#32 else 0x80000000#32)

/-- The comparisons are the real order on finite data, put `-inf` below and `+inf` above every other datum
that is no NaN, and are false with a NaN (R6; the infinities' order is IEEE 754's: log entry 10). -/
def Obligations.ComparisonsAreTheRealOrder : Prop :=
  (∀ a b : Word, F32.isFinite a = true → F32.isFinite b = true →
    (hw.flt a b = true ↔ realOf a < realOf b) ∧ (hw.fgt a b = true ↔ realOf b < realOf a)) ∧
  (∀ a : Word, F32.isNaN a = false →
    (hw.flt a 0x7F800000#32 = true ↔ a ≠ 0x7F800000#32) ∧ hw.fgt a 0x7F800000#32 = false ∧
    (hw.fgt a 0xFF800000#32 = true ↔ a ≠ 0xFF800000#32) ∧ hw.flt a 0xFF800000#32 = false) ∧
  (∀ a b : Word, hw.fgt a b = hw.flt b a) ∧
  (∀ a b : Word, F32.isNaN a = true ∨ F32.isNaN b = true → hw.flt a b = false ∧ hw.fgt a b = false)

/-- A result is a NaN exactly for a NaN operand and the invalid operations, which are IEEE 754's (log entry
10); every NaN pattern, and nothing else, can be drawn; and a result that is no NaN does not depend on the
free choice (R6, U1). -/
def Obligations.NaNsAreTheOnlyFreeResults : Prop :=
  (∀ (d : Nat) (a b : Word),
    (F32.isNaN (hw.fadd d a b) = true ↔ F32.isNaN a = true ∨ F32.isNaN b = true ∨
      (F32.isInf a = true ∧ F32.isInf b = true ∧ F32.sign a ≠ F32.sign b)) ∧
    (F32.isNaN (hw.fsub d a b) = true ↔ F32.isNaN a = true ∨ F32.isNaN b = true ∨
      (F32.isInf a = true ∧ F32.isInf b = true ∧ F32.sign a = F32.sign b)) ∧
    (F32.isNaN (hw.fmul d a b) = true ↔ F32.isNaN a = true ∨ F32.isNaN b = true ∨
      (F32.isInf a = true ∧ F32.isZero b = true) ∨ (F32.isZero a = true ∧ F32.isInf b = true)) ∧
    (F32.isNaN (hw.fdiv d a b) = true ↔ F32.isNaN a = true ∨ F32.isNaN b = true ∨
      (F32.isInf a = true ∧ F32.isInf b = true) ∨ (F32.isZero a = true ∧ F32.isZero b = true))) ∧
  (∀ w : Word, F32.isNaN w = true ↔ ∃ free : BitVec 24, F32.nanOf free = w) ∧
  (∀ (d d' : Nat) (a b : Word),
    (F32.isNaN (hw.fadd d a b) = false → hw.fadd d' a b = hw.fadd d a b) ∧
    (F32.isNaN (hw.fsub d a b) = false → hw.fsub d' a b = hw.fsub d a b) ∧
    (F32.isNaN (hw.fmul d a b) = false → hw.fmul d' a b = hw.fmul d a b) ∧
    (F32.isNaN (hw.fdiv d a b) = false → hw.fdiv d' a b = hw.fdiv d a b))
end

