-- ==== Sys2Proof/Laws/Memory.lean ====
section
/-! SUPPORT. The laws of the buffers: a byte or a word read after a write, and that every write keeps the
canonical form, the range and whole words. -/

namespace Sys2Proof.Machine.Memory

@[simp] theorem getByte_nil (k : Nat) : getByte [] k = none := rfl

theorem getByte_setByte (m : Memory) (k j : Nat) (v : Byte) :
    (m.setByte k v).getByte j = if k = j then some v else m.getByte j := by
  induction m with
  | nil => simp [setByte, getByte]
  | cons x m ih =>
    obtain ⟨a, u⟩ := x
    simp only [setByte]
    split
    · simp [getByte]
    · split
      · subst k
        simp only [getByte]
        split <;> rfl
      · rename_i hlt hne
        simp only [getByte, ih]
        split
        · subst j
          rw [if_neg hne]
        · rfl

@[simp] theorem getByte_setByte_same (m : Memory) (k : Nat) (v : Byte) :
    (m.setByte k v).getByte k = some v := by rw [getByte_setByte, if_pos rfl]

theorem getByte_setByte_other (m : Memory) {k j : Nat} (v : Byte) (h : k ≠ j) :
    (m.setByte k v).getByte j = m.getByte j := by rw [getByte_setByte, if_neg h]

theorem mem_setByte {m : Memory} {k : Nat} {v : Byte} {x : Host.Cell} (h : x ∈ m.setByte k v) :
    x = (k, v) ∨ x ∈ m := by
  induction m with
  | nil => exact .inl (by simpa [setByte] using h)
  | cons y m ih =>
    obtain ⟨a, u⟩ := y
    simp only [setByte] at h
    split at h
    · simpa using h
    · split at h
      · rcases List.mem_cons.1 h with h | h
        · exact .inl h
        · exact .inr (List.mem_cons_of_mem _ h)
      · rcases List.mem_cons.1 h with h | h
        · exact .inr (h ▸ List.mem_cons_self ..)
        · exact (ih h).imp_right (List.mem_cons_of_mem _)

theorem setByte_wf {m : Memory} (h : m.wf) (k : Nat) (v : Byte) : (m.setByte k v).wf := by
  induction m with
  | nil => exact List.pairwise_singleton ..
  | cons y m ih =>
    obtain ⟨a, u⟩ := y
    obtain ⟨ha, hm⟩ := List.pairwise_cons.1 h
    simp only [setByte]
    split
    · rename_i hka
      refine List.pairwise_cons.2 ⟨fun x hx => ?_, h⟩
      rcases List.mem_cons.1 hx with rfl | hx
      · exact hka
      · exact Nat.lt_trans hka (ha x hx)
    · split
      · rename_i hk
        exact List.pairwise_cons.2 ⟨fun x hx => hk ▸ ha x hx, hm⟩
      · rename_i hlt hne
        refine List.pairwise_cons.2 ⟨fun x hx => ?_, ih hm⟩
        rcases mem_setByte hx with rfl | hx
        · show a < k
          omega
        · exact ha x hx

theorem setByte_inRange {m : Memory} {bound k : Nat} (h : m.inRange bound) (hk : k < bound) (v : Byte) :
    (m.setByte k v).inRange bound := fun x hx => (mem_setByte hx).elim (fun e => e ▸ hk) (h x)

/-- A write of a word, byte by byte. -/
theorem getByte_writeWord (m : Memory) (i k : Nat) (v : Word) :
    (m.writeWord i v).getByte k =
      if 4 * i ≤ k ∧ k < 4 * i + 4 then some (byteOf v (k - 4 * i)) else m.getByte k := by
  simp only [writeWord, getByte_setByte]
  by_cases h0 : k = 4 * i
  · subst h0; simp
  by_cases h1 : k = 4 * i + 1
  · subst h1; simp
  by_cases h2 : k = 4 * i + 2
  · subst h2; simp
  by_cases h3 : k = 4 * i + 3
  · subst h3; simp
  rw [if_neg (Ne.symm h3), if_neg (Ne.symm h2), if_neg (Ne.symm h1), if_neg (Ne.symm h0), if_neg (by omega)]

theorem getByte_writeWord_outside {m : Memory} {i k : Nat} (v : Word) (h : k < 4 * i ∨ 4 * i + 4 ≤ k) :
    (m.writeWord i v).getByte k = m.getByte k := by rw [getByte_writeWord, if_neg (by omega)]

/-- The bytes of a word, put back together in the order of R53, are the word. -/
theorem bytes_of_word (v : Word) :
    (byteOf v 3 ++ byteOf v 2 ++ byteOf v 1 ++ byteOf v 0 : BitVec 32) = v := by
  simp only [byteOf]
  rw [BitVec.extractLsb'_append_extractLsb'_eq_extractLsb' (by rfl),
    BitVec.extractLsb'_append_extractLsb'_eq_extractLsb' (by rfl),
    BitVec.extractLsb'_append_extractLsb'_eq_extractLsb' (by rfl)]
  exact BitVec.extractLsb'_eq_self

@[simp] theorem readWord_nil (i : Nat) : readWord [] i = none := rfl

/-- Read after write (R52): the word written, every other word as it was. -/
theorem readWord_writeWord (m : Memory) (i j : Nat) (v : Word) :
    (m.writeWord i v).readWord j = if i = j then some v else m.readWord j := by
  by_cases h : i = j
  · subst h
    rw [if_pos rfl]
    simp only [readWord, getByte_writeWord]
    simp only [Nat.le_refl, Nat.sub_self, show 4 * i < 4 * i + 4 from by omega, if_true,
      show 4 * i ≤ 4 * i + 1 ∧ 4 * i + 1 < 4 * i + 4 from by omega,
      show 4 * i ≤ 4 * i + 2 ∧ 4 * i + 2 < 4 * i + 4 from by omega,
      show 4 * i ≤ 4 * i + 3 ∧ 4 * i + 3 < 4 * i + 4 from by omega,
      Nat.add_sub_cancel_left, and_self, bytes_of_word]
  · rw [if_neg h]
    simp only [readWord]
    rw [getByte_writeWord_outside v (by omega), getByte_writeWord_outside v (by omega),
      getByte_writeWord_outside v (by omega), getByte_writeWord_outside v (by omega)]

theorem readWord_writeWord_other {m : Memory} {i j : Nat} (v : Word) (h : i ≠ j) :
    (m.writeWord i v).readWord j = m.readWord j := by rw [readWord_writeWord, if_neg h]

theorem writeWord_wf {m : Memory} (h : m.wf) (i : Nat) (v : Word) : (m.writeWord i v).wf :=
  setByte_wf (setByte_wf (setByte_wf (setByte_wf h _ _) _ _) _ _) _ _

theorem writeWord_inRange {m : Memory} {bound i : Nat} (h : m.inRange bound) (hi : 4 * i + 4 ≤ bound)
    (v : Word) : (m.writeWord i v).inRange bound :=
  setByte_inRange (setByte_inRange (setByte_inRange (setByte_inRange h (by omega) _) (by omega) _)
    (by omega) _) (by omega) _

theorem writeWord_whole {m : Memory} (h : m.whole) (i : Nat) (v : Word) : (m.writeWord i v).whole := by
  intro k j hj
  by_cases hk : k = i
  · subst hk
    rw [getByte_writeWord, getByte_writeWord, if_pos (by omega), if_pos (by omega)]
    rfl
  · rw [getByte_writeWord_outside v (by omega), getByte_writeWord_outside v (by omega)]
    exact h k j hj

/-- A sample written is two words (R51). -/
theorem readWord_writeSample (m : Memory) (k j : Nat) (x : Cpx Word) :
    (m.writeSample k x).readWord j =
      if j = 2 * k then some x.re else if j = 2 * k + 1 then some x.im else m.readWord j := by
  simp only [writeSample, readWord_writeWord]
  by_cases h1 : 2 * k + 1 = j
  · subst h1; simp
  · rw [if_neg h1, if_neg (show ¬j = 2 * k + 1 from fun e => h1 e.symm)]
    by_cases h0 : 2 * k = j
    · rw [if_pos h0, if_pos h0.symm]
    · rw [if_neg h0, if_neg (fun e => h0 e.symm)]

theorem getByte_writeSample_outside {m : Memory} {k a : Nat} (x : Cpx Word)
    (h : a < 8 * k ∨ 8 * k + 8 ≤ a) : (m.writeSample k x).getByte a = m.getByte a := by
  simp only [writeSample]
  rw [getByte_writeWord_outside _ (by omega), getByte_writeWord_outside _ (by omega)]

theorem writeSample_wf {m : Memory} (h : m.wf) (k : Nat) (x : Cpx Word) : (m.writeSample k x).wf :=
  writeWord_wf (writeWord_wf h _ _) _ _

theorem writeSample_inRange {m : Memory} {bound k : Nat} (h : m.inRange bound) (hk : 8 * k + 8 ≤ bound)
    (x : Cpx Word) : (m.writeSample k x).inRange bound :=
  writeWord_inRange (writeWord_inRange h (by omega) _) (by omega) _

theorem writeSample_whole {m : Memory} (h : m.whole) (k : Nat) (x : Cpx Word) : (m.writeSample k x).whole :=
  writeWord_whole (writeWord_whole h _ _) _ _

theorem nil_whole : Memory.whole [] := fun _ _ _ => rfl

end Sys2Proof.Machine.Memory
end

