-- ==== Sys2Proof/Laws/State.lean ====
section
/-! SUPPORT. One lemma per field per update of `Regs` and `State`, true by `rfl`, so that no proof unfolds a
record update. -/

namespace Sys2Proof.Machine

namespace State

variable (s : State)

@[simp] theorem setRegs_regs (v : Regs Word) : (s.setRegs v).regs = v := rfl
@[simp] theorem setRegs_status (v : Regs Word) : (s.setRegs v).status = s.status := rfl
@[simp] theorem setRegs_ibuf (v : Regs Word) : (s.setRegs v).ibuf = s.ibuf := rfl
@[simp] theorem setRegs_obuf (v : Regs Word) : (s.setRegs v).obuf = s.obuf := rfl
@[simp] theorem setRegs_operands (v : Regs Word) : (s.setRegs v).operands = s.operands := rfl
@[simp] theorem setRegs_response (v : Regs Word) : (s.setRegs v).response = s.response := rfl
@[simp] theorem setRegs_host (v : Regs Word) : (s.setRegs v).host = s.host := rfl
@[simp] theorem setRegs_draws (v : Regs Word) : (s.setRegs v).draws = s.draws := rfl

@[simp] theorem setStatus_regs (v : Word) : (s.setStatus v).regs = s.regs := rfl
@[simp] theorem setStatus_status (v : Word) : (s.setStatus v).status = v := rfl
@[simp] theorem setStatus_ibuf (v : Word) : (s.setStatus v).ibuf = s.ibuf := rfl
@[simp] theorem setStatus_obuf (v : Word) : (s.setStatus v).obuf = s.obuf := rfl
@[simp] theorem setStatus_operands (v : Word) : (s.setStatus v).operands = s.operands := rfl
@[simp] theorem setStatus_response (v : Word) : (s.setStatus v).response = s.response := rfl
@[simp] theorem setStatus_host (v : Word) : (s.setStatus v).host = s.host := rfl
@[simp] theorem setStatus_draws (v : Word) : (s.setStatus v).draws = s.draws := rfl

@[simp] theorem setIbuf_regs (v : Memory) : (s.setIbuf v).regs = s.regs := rfl
@[simp] theorem setIbuf_status (v : Memory) : (s.setIbuf v).status = s.status := rfl
@[simp] theorem setIbuf_ibuf (v : Memory) : (s.setIbuf v).ibuf = v := rfl
@[simp] theorem setIbuf_obuf (v : Memory) : (s.setIbuf v).obuf = s.obuf := rfl
@[simp] theorem setIbuf_operands (v : Memory) : (s.setIbuf v).operands = s.operands := rfl
@[simp] theorem setIbuf_response (v : Memory) : (s.setIbuf v).response = s.response := rfl
@[simp] theorem setIbuf_host (v : Memory) : (s.setIbuf v).host = s.host := rfl
@[simp] theorem setIbuf_draws (v : Memory) : (s.setIbuf v).draws = s.draws := rfl

@[simp] theorem setObuf_regs (v : Memory) : (s.setObuf v).regs = s.regs := rfl
@[simp] theorem setObuf_status (v : Memory) : (s.setObuf v).status = s.status := rfl
@[simp] theorem setObuf_ibuf (v : Memory) : (s.setObuf v).ibuf = s.ibuf := rfl
@[simp] theorem setObuf_obuf (v : Memory) : (s.setObuf v).obuf = v := rfl
@[simp] theorem setObuf_operands (v : Memory) : (s.setObuf v).operands = s.operands := rfl
@[simp] theorem setObuf_response (v : Memory) : (s.setObuf v).response = s.response := rfl
@[simp] theorem setObuf_host (v : Memory) : (s.setObuf v).host = s.host := rfl
@[simp] theorem setObuf_draws (v : Memory) : (s.setObuf v).draws = s.draws := rfl

@[simp] theorem setOperands_regs (v : Operands) : (s.setOperands v).regs = s.regs := rfl
@[simp] theorem setOperands_status (v : Operands) : (s.setOperands v).status = s.status := rfl
@[simp] theorem setOperands_ibuf (v : Operands) : (s.setOperands v).ibuf = s.ibuf := rfl
@[simp] theorem setOperands_obuf (v : Operands) : (s.setOperands v).obuf = s.obuf := rfl
@[simp] theorem setOperands_operands (v : Operands) : (s.setOperands v).operands = v := rfl
@[simp] theorem setOperands_response (v : Operands) : (s.setOperands v).response = s.response := rfl
@[simp] theorem setOperands_host (v : Operands) : (s.setOperands v).host = s.host := rfl
@[simp] theorem setOperands_draws (v : Operands) : (s.setOperands v).draws = s.draws := rfl

@[simp] theorem setResponse_regs (v : Option Response) : (s.setResponse v).regs = s.regs := rfl
@[simp] theorem setResponse_status (v : Option Response) : (s.setResponse v).status = s.status := rfl
@[simp] theorem setResponse_ibuf (v : Option Response) : (s.setResponse v).ibuf = s.ibuf := rfl
@[simp] theorem setResponse_obuf (v : Option Response) : (s.setResponse v).obuf = s.obuf := rfl
@[simp] theorem setResponse_operands (v : Option Response) : (s.setResponse v).operands = s.operands := rfl
@[simp] theorem setResponse_response (v : Option Response) : (s.setResponse v).response = v := rfl
@[simp] theorem setResponse_host (v : Option Response) : (s.setResponse v).host = s.host := rfl
@[simp] theorem setResponse_draws (v : Option Response) : (s.setResponse v).draws = s.draws := rfl

@[simp] theorem setHost_regs (v : List HostAction) : (s.setHost v).regs = s.regs := rfl
@[simp] theorem setHost_status (v : List HostAction) : (s.setHost v).status = s.status := rfl
@[simp] theorem setHost_ibuf (v : List HostAction) : (s.setHost v).ibuf = s.ibuf := rfl
@[simp] theorem setHost_obuf (v : List HostAction) : (s.setHost v).obuf = s.obuf := rfl
@[simp] theorem setHost_operands (v : List HostAction) : (s.setHost v).operands = s.operands := rfl
@[simp] theorem setHost_response (v : List HostAction) : (s.setHost v).response = s.response := rfl
@[simp] theorem setHost_host (v : List HostAction) : (s.setHost v).host = v := rfl
@[simp] theorem setHost_draws (v : List HostAction) : (s.setHost v).draws = s.draws := rfl

@[simp] theorem addDraws_regs (k : Nat) : (s.addDraws k).regs = s.regs := rfl
@[simp] theorem addDraws_status (k : Nat) : (s.addDraws k).status = s.status := rfl
@[simp] theorem addDraws_ibuf (k : Nat) : (s.addDraws k).ibuf = s.ibuf := rfl
@[simp] theorem addDraws_obuf (k : Nat) : (s.addDraws k).obuf = s.obuf := rfl
@[simp] theorem addDraws_operands (k : Nat) : (s.addDraws k).operands = s.operands := rfl
@[simp] theorem addDraws_response (k : Nat) : (s.addDraws k).response = s.response := rfl
@[simp] theorem addDraws_host (k : Nat) : (s.addDraws k).host = s.host := rfl
@[simp] theorem addDraws_draws (k : Nat) : (s.addDraws k).draws = s.draws + k := rfl

/-! The lifecycle bit and a register read follow the fields they look at. -/

@[simp] theorem setRegs_running (v : Regs Word) : (s.setRegs v).running = s.running := rfl
@[simp] theorem setIbuf_running (v : Memory) : (s.setIbuf v).running = s.running := rfl
@[simp] theorem setObuf_running (v : Memory) : (s.setObuf v).running = s.running := rfl
@[simp] theorem setOperands_running (v : Operands) : (s.setOperands v).running = s.running := rfl
@[simp] theorem setResponse_running (v : Option Response) : (s.setResponse v).running = s.running := rfl
@[simp] theorem setHost_running (v : List HostAction) : (s.setHost v).running = s.running := rfl
@[simp] theorem addDraws_running (k : Nat) : (s.addDraws k).running = s.running := rfl

end State

namespace Regs

variable {α : Type} (r : Regs α)

@[simp] theorem setPhase_phase (v : α) : (r.setPhase v).phase = v := rfl
@[simp] theorem setPhase_freq (v : α) : (r.setPhase v).freq = r.freq := rfl
@[simp] theorem setPhase_accRe (v : α) : (r.setPhase v).accRe = r.accRe := rfl
@[simp] theorem setPhase_accIm (v : α) : (r.setPhase v).accIm = r.accIm := rfl
@[simp] theorem setPhase_alphaFilter (v : α) : (r.setPhase v).alphaFilter = r.alphaFilter := rfl
@[simp] theorem setPhase_alphaLoop (v : α) : (r.setPhase v).alphaLoop = r.alphaLoop := rfl
@[simp] theorem setPhase_betaLoop (v : α) : (r.setPhase v).betaLoop = r.betaLoop := rfl
@[simp] theorem setPhase_timeConstant (v : α) : (r.setPhase v).timeConstant = r.timeConstant := rfl

@[simp] theorem setFreq_phase (v : α) : (r.setFreq v).phase = r.phase := rfl
@[simp] theorem setFreq_freq (v : α) : (r.setFreq v).freq = v := rfl
@[simp] theorem setFreq_accRe (v : α) : (r.setFreq v).accRe = r.accRe := rfl
@[simp] theorem setFreq_accIm (v : α) : (r.setFreq v).accIm = r.accIm := rfl
@[simp] theorem setFreq_alphaFilter (v : α) : (r.setFreq v).alphaFilter = r.alphaFilter := rfl
@[simp] theorem setFreq_alphaLoop (v : α) : (r.setFreq v).alphaLoop = r.alphaLoop := rfl
@[simp] theorem setFreq_betaLoop (v : α) : (r.setFreq v).betaLoop = r.betaLoop := rfl
@[simp] theorem setFreq_timeConstant (v : α) : (r.setFreq v).timeConstant = r.timeConstant := rfl

@[simp] theorem setAlphaFilter_phase (v : α) : (r.setAlphaFilter v).phase = r.phase := rfl
@[simp] theorem setAlphaFilter_freq (v : α) : (r.setAlphaFilter v).freq = r.freq := rfl
@[simp] theorem setAlphaFilter_accRe (v : α) : (r.setAlphaFilter v).accRe = r.accRe := rfl
@[simp] theorem setAlphaFilter_accIm (v : α) : (r.setAlphaFilter v).accIm = r.accIm := rfl
@[simp] theorem setAlphaFilter_alphaFilter (v : α) : (r.setAlphaFilter v).alphaFilter = v := rfl
@[simp] theorem setAlphaFilter_alphaLoop (v : α) : (r.setAlphaFilter v).alphaLoop = r.alphaLoop := rfl
@[simp] theorem setAlphaFilter_betaLoop (v : α) : (r.setAlphaFilter v).betaLoop = r.betaLoop := rfl
@[simp] theorem setAlphaFilter_timeConstant (v : α) : (r.setAlphaFilter v).timeConstant = r.timeConstant := rfl

@[simp] theorem setAlphaLoop_phase (v : α) : (r.setAlphaLoop v).phase = r.phase := rfl
@[simp] theorem setAlphaLoop_freq (v : α) : (r.setAlphaLoop v).freq = r.freq := rfl
@[simp] theorem setAlphaLoop_accRe (v : α) : (r.setAlphaLoop v).accRe = r.accRe := rfl
@[simp] theorem setAlphaLoop_accIm (v : α) : (r.setAlphaLoop v).accIm = r.accIm := rfl
@[simp] theorem setAlphaLoop_alphaFilter (v : α) : (r.setAlphaLoop v).alphaFilter = r.alphaFilter := rfl
@[simp] theorem setAlphaLoop_alphaLoop (v : α) : (r.setAlphaLoop v).alphaLoop = v := rfl
@[simp] theorem setAlphaLoop_betaLoop (v : α) : (r.setAlphaLoop v).betaLoop = r.betaLoop := rfl
@[simp] theorem setAlphaLoop_timeConstant (v : α) : (r.setAlphaLoop v).timeConstant = r.timeConstant := rfl

@[simp] theorem setBetaLoop_phase (v : α) : (r.setBetaLoop v).phase = r.phase := rfl
@[simp] theorem setBetaLoop_freq (v : α) : (r.setBetaLoop v).freq = r.freq := rfl
@[simp] theorem setBetaLoop_accRe (v : α) : (r.setBetaLoop v).accRe = r.accRe := rfl
@[simp] theorem setBetaLoop_accIm (v : α) : (r.setBetaLoop v).accIm = r.accIm := rfl
@[simp] theorem setBetaLoop_alphaFilter (v : α) : (r.setBetaLoop v).alphaFilter = r.alphaFilter := rfl
@[simp] theorem setBetaLoop_alphaLoop (v : α) : (r.setBetaLoop v).alphaLoop = r.alphaLoop := rfl
@[simp] theorem setBetaLoop_betaLoop (v : α) : (r.setBetaLoop v).betaLoop = v := rfl
@[simp] theorem setBetaLoop_timeConstant (v : α) : (r.setBetaLoop v).timeConstant = r.timeConstant := rfl

@[simp] theorem setTimeConstant_phase (v : α) : (r.setTimeConstant v).phase = r.phase := rfl
@[simp] theorem setTimeConstant_freq (v : α) : (r.setTimeConstant v).freq = r.freq := rfl
@[simp] theorem setTimeConstant_accRe (v : α) : (r.setTimeConstant v).accRe = r.accRe := rfl
@[simp] theorem setTimeConstant_accIm (v : α) : (r.setTimeConstant v).accIm = r.accIm := rfl
@[simp] theorem setTimeConstant_alphaFilter (v : α) : (r.setTimeConstant v).alphaFilter = r.alphaFilter := rfl
@[simp] theorem setTimeConstant_alphaLoop (v : α) : (r.setTimeConstant v).alphaLoop = r.alphaLoop := rfl
@[simp] theorem setTimeConstant_betaLoop (v : α) : (r.setTimeConstant v).betaLoop = r.betaLoop := rfl
@[simp] theorem setTimeConstant_timeConstant (v : α) : (r.setTimeConstant v).timeConstant = v := rfl

@[simp] theorem setAcc_phase (v : Cpx α) : (r.setAcc v).phase = r.phase := rfl
@[simp] theorem setAcc_freq (v : Cpx α) : (r.setAcc v).freq = r.freq := rfl
@[simp] theorem setAcc_accRe (v : Cpx α) : (r.setAcc v).accRe = v.re := rfl
@[simp] theorem setAcc_accIm (v : Cpx α) : (r.setAcc v).accIm = v.im := rfl
@[simp] theorem setAcc_alphaFilter (v : Cpx α) : (r.setAcc v).alphaFilter = r.alphaFilter := rfl
@[simp] theorem setAcc_alphaLoop (v : Cpx α) : (r.setAcc v).alphaLoop = r.alphaLoop := rfl
@[simp] theorem setAcc_betaLoop (v : Cpx α) : (r.setAcc v).betaLoop = r.betaLoop := rfl
@[simp] theorem setAcc_timeConstant (v : Cpx α) : (r.setAcc v).timeConstant = r.timeConstant := rfl

@[simp] theorem acc_re : r.acc.re = r.accRe := rfl
@[simp] theorem acc_im : r.acc.im = r.accIm := rfl
@[simp] theorem setAcc_acc (v : Cpx α) : (r.setAcc v).acc = v := rfl

end Regs

end Sys2Proof.Machine
end

