-- ==== Sys2Proof/Laws/Ops.lean ====
section
/-! SUPPORT. What each shared operation can do, said once: ending a command, the lifecycle checks, the
registers that each contract operation leaves alone. -/

namespace Sys2Proof.Machine

/-! ### Ending a command -/

theorem respond_eq (ra rb : Word) (s : State) : respond ra rb s = .next (okAnswer ra rb s) := rfl

theorem raise_eq (e : Err) (s : State) : raise e s = .next (errorAnswer e.flag e.code s) := rfl

theorem respond_next {ra rb : Word} {s t : State} (h : respond ra rb s = .next t) : t = okAnswer ra rb s := by
  cases h; rfl

theorem raise_next {e : Err} {s t : State} (h : raise e s = .next t) : t = errorAnswer e.flag e.code s := by
  cases h; rfl

@[simp] theorem whenRunning_of {s : State} (h : s.running = true) (k : Result) : whenRunning s k = k :=
  if_pos h

@[simp] theorem whenRunning_not {s : State} (h : s.running = false) (k : Result) :
    whenRunning s k = raise .wrongState s := by simp [whenRunning, h]

@[simp] theorem whenUnconfigured_of {s : State} (h : s.running = false) (k : Result) :
    whenUnconfigured s k = k := by simp [whenUnconfigured, h]

@[simp] theorem whenUnconfigured_not {s : State} (h : s.running = true) (k : Result) :
    whenUnconfigured s k = raise .wrongState s := if_pos h

/-- A datapath command that answers was refused in `UNCONFIGURED` or ran in `RUNNING`. -/
theorem whenRunning_next {s t : State} {k : Result} (h : whenRunning s k = .next t) :
    (s.running = true ∧ k = .next t) ∨ (s.running = false ∧ t = raised .wrongState s) := by
  cases hr : s.running with
  | true => exact .inl ⟨rfl, by rwa [whenRunning_of hr] at h⟩
  | false => rw [whenRunning_not hr] at h; cases h; exact .inr ⟨rfl, rfl⟩

/-- A construction command that answers was refused in `RUNNING` or ran in `UNCONFIGURED`. -/
theorem whenUnconfigured_next {s t : State} {k : Result} (h : whenUnconfigured s k = .next t) :
    (s.running = false ∧ k = .next t) ∨ (s.running = true ∧ t = raised .wrongState s) := by
  cases hr : s.running with
  | true => rw [whenUnconfigured_not hr] at h; cases h; exact .inr ⟨rfl, rfl⟩
  | false => exact .inl ⟨rfl, by rwa [whenUnconfigured_of hr] at h⟩

theorem thenRespond_next {ra rb : Word} {k : Result} {t : State} (h : thenRespond ra rb k = .next t) :
    ∃ u, k = .next u ∧ t = okAnswer ra rb u := by
  cases k with
  | next u => exact ⟨u, rfl, respond_next h⟩
  | fault f => cases h
  | refused r => cases h

/-! ### What an error leaves -/

section raised
variable (e : Err) (s : State)
@[simp] theorem raised_regs : (raised e s).regs = s.regs := rfl
@[simp] theorem raised_status : (raised e s).status = withFlag e s.status := rfl
@[simp] theorem raised_ibuf : (raised e s).ibuf = s.ibuf := rfl
@[simp] theorem raised_obuf : (raised e s).obuf = s.obuf := rfl
@[simp] theorem raised_operands : (raised e s).operands = s.operands := rfl
@[simp] theorem raised_response : (raised e s).response = some ⟨e.code, 0#32, 0#32⟩ := rfl
@[simp] theorem raised_host : (raised e s).host = s.host := rfl
@[simp] theorem raised_draws : (raised e s).draws = s.draws := rfl
@[simp] theorem raised_running : (raised e s).running = s.running := by
  cases e <;> simp [State.running, withFlag, Err.flag]
end raised

section okAnswer
variable (ra rb : Word) (s : State)
@[simp] theorem okAnswer_regs : (okAnswer ra rb s).regs = s.regs := rfl
@[simp] theorem okAnswer_status : (okAnswer ra rb s).status = s.status := rfl
@[simp] theorem okAnswer_ibuf : (okAnswer ra rb s).ibuf = s.ibuf := rfl
@[simp] theorem okAnswer_obuf : (okAnswer ra rb s).obuf = s.obuf := rfl
@[simp] theorem okAnswer_operands : (okAnswer ra rb s).operands = s.operands := rfl
@[simp] theorem okAnswer_response : (okAnswer ra rb s).response = some ⟨0x00#8, ra, rb⟩ := rfl
@[simp] theorem okAnswer_host : (okAnswer ra rb s).host = s.host := rfl
@[simp] theorem okAnswer_draws : (okAnswer ra rb s).draws = s.draws := rfl
@[simp] theorem okAnswer_running : (okAnswer ra rb s).running = s.running := rfl
end okAnswer

@[simp] theorem withRun_running (w : Word) : (withRun w).getLsbD 0 = true := by
  simp [withRun, runBit]

/-! ### The pipeline as a change of registers -/

section pipe
variable {α : Type} (N : Numerics α) (d : Nat) (r : Regs α) (x : Cpx α)
@[simp] theorem pipe_alphaFilter : (pipe N d r x).1.alphaFilter = r.alphaFilter := rfl
@[simp] theorem pipe_alphaLoop : (pipe N d r x).1.alphaLoop = r.alphaLoop := rfl
@[simp] theorem pipe_betaLoop : (pipe N d r x).1.betaLoop = r.betaLoop := rfl
@[simp] theorem pipe_timeConstant : (pipe N d r x).1.timeConstant = r.timeConstant := rfl
theorem pipe_output : (pipe N d r x).2 = N.cmul (d + 1) x (sinCos N (stepPhase N d r)) := rfl
theorem pipe_acc : (pipe N d r x).1.acc = filterOut N (d + 7) (stepPhase N d r) (pipe N d r x).2 := rfl
end pipe

/-! ### One turn of the batch loop -/

section processOne
variable (N : Numerics Word) (s : State) (k : Nat) (x : Cpx Word)
@[simp] theorem processOne_regs : (processOne N s k x).regs = (pipe N s.draws s.regs x).1 := rfl
@[simp] theorem processOne_status : (processOne N s k x).status = s.status := rfl
@[simp] theorem processOne_ibuf : (processOne N s k x).ibuf = s.ibuf := rfl
@[simp] theorem processOne_obuf :
    (processOne N s k x).obuf = s.obuf.writeSample k (pipe N s.draws s.regs x).2 := rfl
@[simp] theorem processOne_operands : (processOne N s k x).operands = s.operands := rfl
@[simp] theorem processOne_response : (processOne N s k x).response = s.response := rfl
@[simp] theorem processOne_host : (processOne N s k x).host = s.host := rfl
@[simp] theorem processOne_draws : (processOne N s k x).draws = s.draws + pipeDraws := rfl
@[simp] theorem processOne_running : (processOne N s k x).running = s.running := rfl
end processOne

/-- The loop of `PROCESS` carries any property of the state that each turn carries. -/
theorem processLoop_keeps {N : Numerics Word} {Q : State → Prop} {lo hi : Nat}
    (turn : ∀ s k x, lo ≤ k → k < hi → Q s → Q (processOne N s k x)) :
    ∀ {count k : Nat} {s t : State}, lo ≤ k → k + count ≤ hi → Q s →
      processLoop N count k s = .next t → Q t := by
  intro count
  induction count with
  | zero => intro k s t _ _ hs h; cases h; exact hs
  | succ count ih =>
    intro k s t hlo hhi hs h
    simp only [processLoop] at h
    split at h
    · cases h
    · split at h
      · cases h
      · exact ih (by omega) (by omega) (turn s k _ hlo (by omega) hs) h

/-- The loop of `PROCESS` is never refused, and its only fault names an unwritten word of `IBUF`. -/
theorem processLoop_stops {N : Numerics Word} :
    ∀ (count k : Nat) (s : State), (∃ t, processLoop N count k s = .next t) ∨
      (∃ j, 2 * k ≤ j ∧ j < 2 * (k + count) ∧ s.ibuf.readWord j = none ∧
        processLoop N count k s = .fault (.unwrittenWord j)) := by
  intro count
  induction count with
  | zero => intro k s; exact .inl ⟨s, rfl⟩
  | succ count ih =>
    intro k s
    simp only [processLoop]
    split
    · rename_i h
      exact .inr ⟨2 * k, by omega, by omega, h, rfl⟩
    · split
      · rename_i h
        exact .inr ⟨2 * k + 1, by omega, by omega, h, rfl⟩
      · rcases ih (k + 1) (processOne N s k ⟨_, _⟩) with ⟨t, h⟩ | ⟨j, h1, h2, h3, h4⟩
        · exact .inl ⟨t, h⟩
        · exact .inr ⟨j, by omega, by omega, h3, h4⟩

/-! ### Several cores -/

/-- A command on a core with the machine's parameters is `exec`. -/
theorem execWith_params (i : Instr) (s : State) : execWith Config.params i s = exec i s := by
  cases i <;> rfl

/-- A core that goes on takes its own step. -/
theorem stepCore_of {P : Nat → Params} {k : Nat} {cores : List Result} {s : State}
    (h : cores[k]? = some (.next s)) : stepCore P k cores = cores.set k (stepWith (P k) s) := by
  simp only [stepCore, h]

/-- A stopped core, or one past the end of the list, does nothing. -/
theorem stepCore_of_not {P : Nat → Params} {k : Nat} {cores : List Result}
    (h : ∀ s, cores[k]? ≠ some (.next s)) : stepCore P k cores = cores := by
  unfold stepCore
  split
  · rename_i s hs
    exact absurd hs (h s)
  · rfl
  · rfl
  · rfl

end Sys2Proof.Machine
end

