-- ==== Sys2Proof/Laws/PerInstr.lean ====
section
/-! SUPPORT. Statements made of every command, one lemma per constructor. -/

namespace Sys2Proof.Laws.EncodingFields

/-- The three fields of a command's word are its opcode, `sel` and `n` (R72). -/
def Statement (i : Instr) : Prop :=
  opcodeField (encode i) = i.opcode ∧ selField (encode i) = i.selBits ∧ nField (encode i) = i.nBits

theorem toNat_append (op sel : BitVec 8) (n : BitVec 16) :
    (op ++ sel ++ n).toNat = op.toNat * 2 ^ 24 + sel.toNat * 2 ^ 16 + n.toNat := by
  have hn := n.isLt
  have hs := sel.isLt
  rw [BitVec.toNat_append, BitVec.toNat_append, ← Nat.shiftLeft_add_eq_or_of_lt hn,
    ← Nat.shiftLeft_add_eq_or_of_lt hs, Nat.shiftLeft_eq, Nat.shiftLeft_eq]
  omega

theorem fields_of_append (op sel : BitVec 8) (n : BitVec 16) :
    opcodeField (op ++ sel ++ n) = op ∧ selField (op ++ sel ++ n) = sel ∧ nField (op ++ sel ++ n) = n := by
  have hn := n.isLt
  have hs := sel.isLt
  have ho := op.isLt
  refine ⟨?_, ?_, ?_⟩ <;> apply BitVec.eq_of_toNat_eq <;>
    simp only [opcodeField, selField, nField, BitVec.extractLsb'_toNat, toNat_append,
      Nat.shiftRight_eq_div_pow] <;> omega

theorem all (i : Instr) : Statement i := fields_of_append i.opcode i.selBits i.nBits

theorem nop : Statement .nop := all _
theorem reset : Statement .reset := all _
theorem setcfg (field : Reg) : Statement (.setcfg field) := all _
theorem config : Statement .config := all _
theorem get (r : Reg) : Statement (.get r) := all _
theorem setfreq : Statement .setfreq := all _
theorem setphase : Statement .setphase := all _
theorem step : Statement .step := all _
theorem sincos : Statement .sincos := all _
theorem adjphase : Statement .adjphase := all _
theorem adjfreq : Statement .adjfreq := all _
theorem filter : Statement .filter := all _
theorem detect : Statement .detect := all _
theorem sample : Statement .sample := all _
theorem process (n : BitVec 16) : Statement (.process n) := all _

end Sys2Proof.Laws.EncodingFields
end

