-- ==== Sys2Proof/Tests/Slice0.lean ====
section
/-! SUPPORT. Tests of the model against the spec's own words and vectors (95_test_vectors.md), each from the
place its comment names, and a witness for the hypotheses of each statement. -/

namespace Sys2Proof.Tests

open Sys2Proof Sys2Proof.Machine

/-! ### Helpers -/

def regsOf : Result → Option (Regs Word)
  | .next s => some s.regs
  | .fault _ => none
  | .refused _ => none

def responseOf : Result → Option Response
  | .next s => s.response
  | .fault _ => none
  | .refused _ => none

def statusOf : Result → Option Word
  | .next s => some s.status
  | .fault _ => none
  | .refused _ => none

def obufOf (i : Nat) : Result → Option Word
  | .next s => hostReadObuf s i
  | .fault _ => none
  | .refused _ => none

def table (rows : List (Word × Word)) (x : Word) : Word :=
  match rows with
  | [] => 0
  | (k, v) :: rest => if k = x then v else table rest x

def table2 (rows : List ((Word × Word) × Word)) (y x : Word) : Word :=
  match rows with
  | [] => 0
  | (k, v) :: rest => if k = (y, x) then v else table2 rest y x

/-- Primitives with the correctly rounded values the vectors print (P_EXACT_POINTS), at the operands of
programs P1, P2 and sections 2.2 and 2.4; `MAXN = 1024` (section 3). For sample 2 of P1 the table is keyed by
the phase that the rules give after stage 1, `0x3A24B5D3`: see log entry 9. -/
def pep : Params where
  sin := table [(0x00000000, 0x00000000), (0x39A4B7DA, 0x39A4B7DA), (0x3A24B5D3, 0x3A24B5D2),
    (0x3F400000, 0x3F2E7FE1), (0x3F080AE0, 0x3F01BAAA)]
  cos := table [(0x00000000, 0x3F800000), (0x39A4B7DA, 0x3F7FFFFF), (0x3A24B5D3, 0x3F7FFFFD),
    (0x3F400000, 0x3F3B4FF6), (0x3F080AE0, 0x3F5CB1F5)]
  exp := table [(0xBF800000, 0x3EBC5AB2), (0xBC23D70A, 0x3F7D73E8)]
  atan2Approx := table2 [((0x3F21D2A7, 0x00000000), 0x3FC90FDB), ((0x3F5D5AAA, 0x39503E55), 0x3FC90854),
    ((0x3F734126, 0x39F689A6), 0x3FC8FFA3), ((0x00000000, 0xBF800000), 0x40490FDB),
    ((0x3F800000, 0x3F800000), 0x3F490FDB), ((0x3E4501E5, 0x3E97C1E7), 0x3F136339)]
  atan2Zero := fun _ _ => 0
  freeNaN := fun d => BitVec.ofNat 24 d
  cap := ⟨1023, by decide⟩

/-- A running core with these registers and operands, all else as after reset. -/
def runningWith (r : Regs Word) (a b : Word) : State :=
  { State.reset with regs := r, status := 0x00000001, operands := ⟨a, b, 0⟩ }

/-- A core before construction with these operands. -/
def freshWith (a b c : Word) : State := { State.reset with operands := ⟨a, b, c⟩ }

/-- The registers after `CONFIG 200000.0, 0.0, 0.0` (section 3, P1). -/
def p1Regs : Regs Word := { Regs.reset with alphaFilter := 0x3F21D2A7 }

/-- The registers after `CONFIG 200000.0, 1000.0, 0.5` (section 3, P2). -/
def p2Regs : Regs Word :=
  { Regs.reset with alphaFilter := 0x3F21D2A7, freq := 0x3D00ADFD, phase := 0x3F000000 }

/-! ### Well-formedness (R75) -/

theorem test_setcfg_of_limit_is_ill_formed : (Instr.setcfg .limit).wellFormed = false := by decide
theorem test_setcfg_of_alphaFilter_is_ill_formed : (Instr.setcfg .alphaFilter).wellFormed = false := by decide
theorem test_setcfg_of_status_is_ill_formed : (Instr.setcfg .status).wellFormed = false := by decide
theorem test_setcfg_of_betaLoop_is_well_formed : (Instr.setcfg .betaLoop).wellFormed = true := by decide

/-! ### Decoding: words written out from R74 and section 2.1 -/

theorem test_decode_construction :
    decode 0x00000000 = .ok .nop ∧ decode 0x01000000 = .ok .reset ∧ decode 0x03000000 = .ok .config ∧
    decode 0x02090000 = .ok (.setcfg .alphaLoop) ∧ decode 0x020A0000 = .ok (.setcfg .betaLoop) ∧
    decode 0x020C0000 = .ok (.setcfg .timeConstant) := by decide

theorem test_decode_get :
    decode 0x04000000 = .ok (.get .phase) ∧ decode 0x04010000 = .ok (.get .freq) ∧
    decode 0x04020000 = .ok (.get .accRe) ∧ decode 0x04030000 = .ok (.get .accIm) ∧
    decode 0x04080000 = .ok (.get .alphaFilter) ∧ decode 0x04090000 = .ok (.get .alphaLoop) ∧
    decode 0x040A0000 = .ok (.get .betaLoop) ∧ decode 0x040B0000 = .ok (.get .limit) ∧
    decode 0x040C0000 = .ok (.get .timeConstant) ∧ decode 0x040F0000 = .ok (.get .status) := by decide

theorem test_decode_oscillator :
    decode 0x10000000 = .ok .setfreq ∧ decode 0x11000000 = .ok .setphase ∧ decode 0x12000000 = .ok .step ∧
    decode 0x13000000 = .ok .sincos ∧ decode 0x14000000 = .ok .adjphase ∧
    decode 0x15000000 = .ok .adjfreq := by decide

theorem test_decode_datapath :
    decode 0x20000000 = .ok .filter ∧ decode 0x30000000 = .ok .detect ∧ decode 0x40000000 = .ok .sample ∧
    decode 0x41000000 = .ok (.process 0) ∧ decode 0x4100FFFF = .ok (.process 65535) := by decide

theorem test_decode_illegal :
    decode 0x00000001 = .error .nNotZero ∧ decode 0x020B0000 = .error .selNotLegal ∧
    decode 0x02080000 = .error .selNotLegal ∧ decode 0x02000000 = .error .selNotLegal ∧
    decode 0x03010000 = .error .selNotZero ∧ decode 0x04040000 = .error .selNotLegal ∧
    decode 0x040D0000 = .error .selNotLegal ∧ decode 0x04000001 = .error .nNotZero ∧
    decode 0x05000000 = .error .unassignedOpcode ∧ decode 0x16000000 = .error .unassignedOpcode ∧
    decode 0x12010000 = .error .selNotZero ∧ decode 0x41010000 = .error .selNotZero ∧
    decode 0x42000000 = .error .unassignedOpcode ∧ decode 0xFFFFFFFF = .error .unassignedOpcode := by decide

/-- R81: `PROCESS 4` and `SETCFG ALPHA_LOOP`. -/
theorem test_encode : encode (.process 4) = 0x41000004 ∧ encode (.setcfg .alphaLoop) = 0x02090000 := by decide

theorem test_decodeTableWord :
    decodeTableWord 32 0x040F0000 = some (.get .status) ∧ decodeTableWord 32 0x05000000 = none := by decide

/-! ### Arithmetic: R6, R27, R81, section 2.2 -/

/-- R81, section 2.5: decimal literals. -/
theorem test_literals :
    literalWord (.decimal false 1 1000) = 0x3A83126F ∧ literalWord (.decimal false 2 10000) = 0x3951B717 ∧
    literalWord (.decimal false 5 1000000) = 0x36A7C5AC ∧
    literalWord (.decimal true 2691000 1) = 0xCA243EE0 := by decide

/-- R27: the default of `BETA_LOOP`. -/
theorem test_beta_default : betaOf (b32 pep) 0 0x3951B717 = 0x322BCC76 := by decide

/-- Section 2.2: overflow to the infinity; the invalid sum of two infinities. -/
theorem test_add_extremes :
    F32.add 0x7FC00000 0x7F7FFFFF 0x7F7FFFFF = 0x7F800000 ∧
    F32.isNaN (F32.add (nanDraw pep 0) 0x7F800000 0xFF800000) = true ∧
    F32.add 0x7FC00000 0x80000000 0x80000000 = 0x80000000 := by decide

/-- R97: a tie rounds to even; section 2.2: an addend under half the spacing. -/
theorem test_add_ties :
    F32.add 0x7FC00000 0x3F800000 0x33800000 = 0x3F800000 ∧
    F32.add 0x7FC00000 0x3F800000 0x34000000 = 0x3F800001 ∧
    F32.add 0x7FC00000 0x49742400 0x3D23D70A = 0x49742401 := by decide

/-- Section 2.5: the intermediate values of `CONFIG`, a subnormal rate among them. -/
theorem test_mul_div :
    F32.mul 0x7FC00000 0x473B8000 0x36A7C5AC = 0x3E75C28F ∧
    F32.div 0x7FC00000 0x3F800000 0x3E75C28F = 0x40855556 ∧
    F32.mul 0x7FC00000 0x000116C2 0x36A7C5AC = 0x00000000 ∧
    F32.div 0x7FC00000 0x3F800000 0x00000000 = 0x7F800000 := by decide

/-! ### Construction and access -/

/-- R150. -/
theorem test_nop : exec .nop State.reset = .next (okAnswer 0 0 State.reset) := rfl

/-- R151, its example: `RESET` in `RUNNING` with `FREQ = 0.25`. -/
theorem test_reset :
    regsOf (exec .reset (runningWith { Regs.reset with freq := 0x3E800000 } 0 0)) = some Regs.reset ∧
    statusOf (exec .reset (runningWith Regs.reset 0 0)) = some 0x00000000 := by decide

/-- R152, its example. -/
theorem test_setcfg_alphaLoop :
    regsOf (exec (.setcfg .alphaLoop) (freshWith 0x3A83126F 0 0)) =
      some { Regs.reset with alphaLoop := 0x3A83126F, betaLoop := 0x348637BE } := by decide

/-- P4 line 7: refused in `RUNNING`. -/
theorem test_setcfg_running :
    responseOf (exec (.setcfg .alphaLoop) (runningWith Regs.reset 0x3A83126F 0)) = some ⟨0x03, 0, 0⟩ := by
  decide

/-- Section 2.5, second row. -/
theorem test_config :
    regsOf (configCmd pep (freshWith 0x48435000 0x447A0000 0x3F000000)) = some p2Regs := by decide

/-- P4 line 3: `CONFIG 0.0`. -/
theorem test_config_zero_rate :
    responseOf (exec .config (freshWith 0 0 0)) = some ⟨0x01, 0, 0⟩ ∧
    statusOf (exec .config (freshWith 0 0 0)) = some 0x00000002 := by decide

/-- Section 2.5: `GET` after hardware reset. -/
theorem test_get :
    responseOf (exec (.get .betaLoop) State.reset) = some ⟨0, 0x322BCC76, 0⟩ ∧
    responseOf (exec (.get .limit) State.reset) = some ⟨0, 0x3FC90FDB, 0⟩ ∧
    responseOf (exec (.get .timeConstant) State.reset) = some ⟨0, 0x36A7C5AC, 0⟩ := by decide

/-! ### Oscillator -/

/-- R91: `SETFREQ 0.25`. -/
theorem test_setfreq :
    regsOf (exec .setfreq (runningWith Regs.reset 0x3E800000 0)) =
      some { Regs.reset with freq := 0x3E800000 } := by decide

/-- Section 2.2: `SETPHASE -0` is stored bit for bit. -/
theorem test_setphase :
    regsOf (exec .setphase (runningWith Regs.reset 0x80000000 0)) =
      some { Regs.reset with phase := 0x80000000 } := by decide

/-- R93, its example. -/
theorem test_step :
    regsOf (exec .step (runningWith { Regs.reset with phase := 0x3F000000, freq := 0x3E800000 } 0 0)) =
      some { Regs.reset with phase := 0x3F400000, freq := 0x3E800000 } := by decide

/-- P4 line 2: `STEP` before construction. -/
theorem test_step_unconfigured :
    responseOf (exec .step State.reset) = some ⟨0x03, 0, 0⟩ ∧
    statusOf (exec .step State.reset) = some 0x00000008 := by decide

/-- R94: the sine of 0.75 in `ra`, the cosine in `rb`. -/
theorem test_sincos :
    responseOf (sincosCmd pep (runningWith { Regs.reset with phase := 0x3F400000 } 0 0)) =
      some ⟨0, 0x3F2E7FE1, 0x3F3B4FF6⟩ := by decide

/-- R95, its example. -/
theorem test_adjphase :
    regsOf (exec .adjphase (runningWith { Regs.reset with phase := 0x3F400000 } 0x3E800000 0)) =
      some { Regs.reset with phase := 0x3F800000 } := by decide

/-- Section 2.2: `FREQ = 0.25`, `ADJFREQ -0.25` leaves `+0`. -/
theorem test_adjfreq :
    regsOf (exec .adjfreq (runningWith { Regs.reset with freq := 0x3E800000 } 0xBE800000 0)) =
      some { Regs.reset with freq := 0x00000000 } := by decide

/-! ### Loop filter and phase detector -/

/-- Section 2.3, input `(0.5, -2.0)`, `n = 2` from the accumulator of `n = 1`. -/
theorem test_filter :
    responseOf (exec .filter
      (runningWith { p1Regs with accRe := 0x3EA1D2A7, accIm := 0xBFA1D2A7 } 0x3F000000 0xC0000000)) =
      some ⟨0, 0x3EDD5AAA, 0xBFDD5AAA⟩ := by decide

/-- Section 2.3, corner case: coefficient 1 and an infinite accumulator give a NaN in that lane only. -/
theorem test_filter_nan_lane :
    (responseOf (filterCmd pep
      (runningWith { Regs.reset with alphaFilter := 0x3F800000, accRe := 0x7F800000 } 0x40000000
        0x40400000))).map (fun r => (F32.isNaN r.ra, r.rb)) = some (true, 0x40400000) := by decide

/-- R120, its example: `DETECT -1.0, 0.0` is clamped. -/
theorem test_detect_clamped :
    responseOf (detectCmd pep (runningWith Regs.reset 0xBF800000 0x00000000)) = some ⟨0, 0x3FC90FDB, 0⟩ := by
  decide

/-- R120, its example: `DETECT 1.0, 1.0` is not. -/
theorem test_detect_inside :
    responseOf (detectCmd pep (runningWith Regs.reset 0x3F800000 0x3F800000)) = some ⟨0, 0x3F490FDB, 0⟩ := by
  decide

/-! ### Loop controller -/

/-- P2, core A: the response. -/
theorem test_sample_response :
    responseOf (sampleCmd pep (runningWith p2Regs 0x3F000000 0xBE800000)) =
      some ⟨0, 0x3EF013A4, 0x3E9BD4A0⟩ := by decide

/-- P2, core A: the state after line 2. -/
theorem test_sample_registers :
    regsOf (sampleCmd pep (runningWith p2Regs 0x3F000000 0xBE800000)) =
      some { p2Regs with
        phase := 0x3F08126C, freq := 0x3D00ADFF, accRe := 0x3E97C1E7, accIm := 0x3E4501E5 } := by decide

/-- A batch of samples `(1.0, 0.0)` in `IBUF`. -/
def ones : Nat → Memory
  | 0 => []
  | k + 1 => (ones k).writeSample k ⟨0x3F800000, 0x00000000⟩

/-- P1: the end state of `PROCESS 3`. -/
theorem test_process_registers :
    regsOf (processCmd pep 3 { runningWith p1Regs 0 0 with ibuf := ones 3 }) =
      some { p1Regs with
        phase := 0x3A770A0E, freq := 0x334A5D4B, accRe := 0x39F689A6, accIm := 0x3F734126 } := by decide +kernel

/-- P1: `OBUF` after `PROCESS 3`. -/
theorem test_process_outputs :
    (List.range 7).map (fun i => obufOf i (processCmd pep 3 { runningWith p1Regs 0 0 with ibuf := ones 3 })) =
      [some 0x00000000, some 0x3F800000, some 0x39A4B7DA, some 0x3F7FFFFF, some 0x3A24B5D2, some 0x3F7FFFFD,
        none] := by decide +kernel

/-- P4 line 9: `PROCESS 1025` with `MAXN = 1024`. -/
theorem test_process_too_long :
    responseOf (processCmd pep 1025 (runningWith Regs.reset 0 0)) = some ⟨0x04, 0, 0⟩ ∧
    statusOf (processCmd pep 1025 (runningWith Regs.reset 0 0)) = some 0x00000011 := by decide

/-- R62: the read of an unwritten word stops and names it. -/
theorem test_process_unwritten :
    processCmd pep 2 { runningWith p1Regs 0 0 with ibuf := ones 1 } = .fault (.unwrittenWord 2) := rfl

/-! ### The step and the ports -/

/-- The command presented by `withFetchWord` is the next one performed: P4 line 4 and `GET LIMIT`. -/
theorem test_fetch :
    responseOf (step (State.reset.withFetchWord 32 0x05000000)) = some ⟨0x02, 0, 0⟩ ∧
    responseOf (step (State.reset.withFetchWord 32 0x040B0000)) = some ⟨0, 0x3FC90FDB, 0⟩ := by decide

/-- The operand words above the command word (log entry 20): `CONFIG` with `a = -1.0` is refused, `SETCFG` stores. -/
theorem test_fetch_operands :
    statusOf (step (State.reset.withFetchWord 64 0xBF80000003000000)) = some 0x00000002 ∧
    regsOf (step (State.reset.withFetchWord 64 0x3727C5AC020C0000)) =
      some { Regs.reset with timeConstant := 0x3727C5AC } := by decide

/-- The examples of R81. -/
theorem test_lines_of_the_assembler :
    assembleLine "NOP" = some [⟨0x00000000, ⟨0, 0, 0⟩⟩] ∧
    assembleLine "SETCFG ALPHA_LOOP, 0.001" = some [⟨0x02090000, ⟨0x3A83126F, 0, 0⟩⟩] ∧
    assembleLine "CONFIG 200000.0, 0.0, 0.0" = some [⟨0x03000000, ⟨0x48435000, 0, 0⟩⟩] ∧
    assembleLine "GET STATUS" = some [⟨0x040F0000, ⟨0, 0, 0⟩⟩] ∧
    assembleLine "SAMPLE 1.0, 0.0  ; one" = some [⟨0x40000000, ⟨0x3F800000, 0, 0⟩⟩] ∧
    assembleLine "PROCESS 4" = some [⟨0x41000004, ⟨0, 0, 0⟩⟩] ∧
    assembleLine "SETPHASE 0x3FC90FDB" = some [⟨0x11000000, ⟨0x3FC90FDB, 0, 0⟩⟩] := by decide +kernel

/-- Exponents (95_test_vectors.md 2.5), the largest batch, and `CONSTRUCT` (R82). -/
theorem test_more_lines_of_the_assembler :
    assembleLine "SETCFG ALPHA_LOOP, 2e-4" = some [⟨0x02090000, ⟨0x3951B717, 0, 0⟩⟩] ∧
    assembleLine "PROCESS 65536" = none ∧ assembleLine "SETCFG LIMIT, 1.0" = none ∧
    assembleLine "CONSTRUCT 20000000.0" =
      some [⟨0x01000000, ⟨0, 0, 0⟩⟩, ⟨0x03000000, ⟨0x4B989680, 0xCA243EE0, 0⟩⟩] := by decide +kernel

/-- R81: `CONFIG 200000.0, 0.0, 0.0`; `STEP` has no operand. -/
theorem test_assemble :
    assemble .config [.decimal false 200000 1, .decimal false 0 1, .pattern 0] =
      some ⟨0x03000000, ⟨0x48435000, 0, 0⟩⟩ ∧ assemble .step [.pattern 0] = none := by decide

/-! ### Witnesses: the hypotheses of each statement are met -/

theorem maxN_pos (P : Params) : 1 ≤ P.maxN := Nat.succ_le_succ (Nat.zero_le _)
theorem maxN_le (P : Params) : P.maxN ≤ 65535 := P.cap.isLt

/-- A running core with one sample in `IBUF`. -/
def oneSample : State := { runningWith p1Regs 0 0 with ibuf := ones 1 }

/-- A core whose host presents one command word next. -/
def presenting (w : Word) (s : State) : State := { s with host := [.command ⟨w, ⟨0x3F800000, 0, 0⟩⟩] }

theorem oneSample_holds : oneSample.holds [⟨0x3F800000, 0x00000000⟩] := by
  intro k x h
  match k with
  | 0 => cases h; decide
  | k + 1 => cases h

theorem witness_EncodedCommandDecodesToItself :
    (Instr.setcfg .timeConstant).wellFormed = true ∧ (Instr.process 65535).wellFormed = true ∧
    (Instr.get .status).wellFormed = true := by decide

theorem witness_DecodedWordIsItsEncoding :
    decode 0x4100FFFF = .ok (.process 65535) ∧ decode 0x04000000 = .ok (.get .phase) := by decide

theorem witness_DecodedWordMatchesExactlyOneRow :
    decode 0x040F0000 = .ok (.get .status) ∧ decode 0xFFFFFFFF = .error .unassignedOpcode := by decide

theorem witness_IllegalWordsRaiseIllegalCommand :
    (presenting 0x12000001 State.reset).host = [.command ⟨0x12000001, ⟨0x3F800000, 0, 0⟩⟩] ∧
    decode 0x12000001 = .error .nNotZero := by decide

theorem witness_StepRunsTheDecodedCommand :
    (presenting 0x12000000 State.reset).host = [.command ⟨0x12000000, ⟨0x3F800000, 0, 0⟩⟩] ∧
    decode 0x12000000 = .ok .step := by decide

theorem witness_IdleCoreKeepsItsState : State.reset.host = [] := rfl

/-- Both clauses: word 0 always exists, word `2·MAXN` never does. -/
theorem witness_HostWriteReplacesOneWordOfIbuf :
    (∃ s : State, s.host = [.writeIbuf 0 1] ∧ 0 < 2 * Config.params.maxN) ∧
    (∃ s : State, s.host = [.writeIbuf (2 * Config.params.maxN) 1] ∧
      2 * Config.params.maxN ≤ 2 * Config.params.maxN) :=
  ⟨⟨{ State.reset with host := [.writeIbuf 0 1] }, rfl, by have := maxN_pos Config.params; omega⟩,
    ⟨{ State.reset with host := [.writeIbuf (2 * Config.params.maxN) 1] }, rfl, Nat.le_refl _⟩⟩

theorem witness_HardwareResetLeavesTheResetValues :
    ({ oneSample with host := [.hardReset] } : State).host = [.hardReset] := rfl

/-- Hypotheses of the statements about every command that answers, on a success and on an error. -/
theorem witness_CommandsSucceedOrRaiseOnePreciseError :
    (∃ t, exec .setfreq (runningWith Regs.reset 1 0) = .next t) ∧
    (∃ t, exec .step State.reset = .next t) := ⟨⟨_, rfl⟩, ⟨_, rfl⟩⟩

/-- One case of each clause of the admission table. -/
theorem witness_LifecycleStateAdmitsCommands :
    (State.reset.running = false ∧ isDatapath .detect = true) ∧
    ((runningWith Regs.reset 0 0).running = true ∧ Reg.isField .betaLoop = true) ∧
    (¬(State.reset.running = false ∧ isDatapath .nop = true) ∧
      ¬(State.reset.running = true ∧ Instr.nop = .config) ∧
      exec .nop State.reset = .next (okAnswer 0 0 State.reset)) :=
  ⟨by decide, by decide, by decide, by decide, rfl⟩

theorem witness_BatchLongerThanBuffersRaisesBadLength :
    (runningWith Regs.reset 0 0).running = true ∧ pep.maxN < (1025#16).toNat := by decide

/-- A step into `RUNNING` (at the parameters' own arithmetic) and one out of it. -/
theorem witness_LifecycleMovesOnlyByConfigAndReset :
    (∃ t, step (presenting 0x03000000 State.reset) = .next t ∧ State.reset.running = false ∧
      t.running = true) ∧
    (∃ t, step (presenting 0x01000000 (runningWith Regs.reset 0 0)) = .next t ∧
      (runningWith Regs.reset 0 0).running = true ∧ t.running = false) :=
  ⟨⟨_, rfl, rfl, rfl⟩, ⟨_, rfl, rfl, rfl⟩⟩

theorem witness_StickyFlagsInfluenceNoCommand :
    Instr.sample ≠ .get .status ∧
    (0x0000001F#32).getLsbD 0 = (runningWith Regs.reset 0 0).status.getLsbD 0 := by decide

theorem witness_SetcfgWritesItsField :
    (freshWith 0x3A83126F 0 0).running = false ∧ (runningWith Regs.reset 0 0).running = true ∧
    Reg.limit ≠ .alphaLoop ∧ Reg.limit ≠ .betaLoop ∧ Reg.limit ≠ .timeConstant := by decide

/-- Each clause: a positive rate, the refused rate `+0`, the running core. -/
theorem witness_ConfigConstructsTheLoop :
    ((freshWith 0x48435000 0 0).running = false ∧ hw.fgt (freshWith 0x48435000 0 0).operands.a 0 = true ∧
      hw.fgt (freshWith 0x48435000 0 0).regs.timeConstant 0 = true) ∧
    ((freshWith 0 0 0).running = false ∧ ¬(hw.fgt (freshWith 0 0 0).operands.a 0 = true)) ∧
    (runningWith Regs.reset 0 0).running = true := by decide

/-- Both sides of the test at its ends: the smallest subnormal and `+inf` pass, `+0` and the first NaN do
not (section 2.5). -/
theorem witness_PositiveTestAcceptsExactlyPositiveData :
    hw.fgt 0x00000001 0 = true ∧ hw.fgt 0x7F800000 0 = true ∧ hw.fgt 0x00000000 0 = false ∧
    hw.fgt 0x7F800001 0 = false ∧ hw.fgt 0x80000000 0 = false := by decide

theorem witness_ConstructBuildsAFreshLoop :
    ({ oneSample with host := (construct 0x48435000 none none).map HostAction.command ++ [] } : State).host =
      (construct 0x48435000 none none).map HostAction.command ++ [] ∧ hw.fgt 0x48435000 0 = true := by decide

/-- The two lifecycle states, for every statement with a clause for each. -/
theorem witness_both_lifecycle_states :
    (runningWith Regs.reset 0x3E800000 0).running = true ∧ State.reset.running = false := by decide

theorem witness_AdjustmentsAreAdditiveInRefAndNotInB32 :
    ({ Regs.reset with phase := 0x3F800000, freq := 0x3F800000 } : Regs Word).phase = 0x3F800000 ∧
    ({ Regs.reset with phase := 0x3F800000, freq := 0x3F800000 } : Regs Word).freq = 0x3F800000 := by decide

/-- At the ends of the range: the first pattern beyond 8192 and the largest finite one. -/
theorem witness_CorrectionsVanishBeyond8192 :
    (F32.isFinite 0x46000001 = true ∧ 0x46000000 < F32.magField 0x46000001 ∧
      F32.magField 0xB9A4B5BE ≤ 0x39A4B5BE) ∧
    (F32.isFinite 0xFF7FFFFF = true ∧ 0x46000000 < F32.magField 0xFF7FFFFF) := by decide

theorem witness_FilterStepResponseInRef :
    ({ phase := 0, freq := 0, accRe := 0, accIm := 0, alphaFilter := 1 / 2, alphaLoop := 0, betaLoop := 0,
       timeConstant := 0 } : Regs ℝ).accRe = 0 ∧ 1 ≤ 1000 := ⟨rfl, by decide⟩

theorem witness_FilterIsBoundedInRef :
    ∃ (M : ℝ) (r : Regs ℝ) (xs : List (Cpx ℝ)), 0 < r.alphaFilter ∧ r.alphaFilter < 1 ∧ r.accRe = 0 ∧
      r.accIm = 0 ∧ 0 ≤ M ∧ xs ≠ [] ∧ ∀ x ∈ xs, x.re ^ 2 + x.im ^ 2 ≤ M ^ 2 := by
  refine ⟨1, ⟨0, 0, 0, 0, 1 / 2, 0, 0, 0⟩, [⟨1, 0⟩], by norm_num, by norm_num, rfl, rfl, by norm_num,
    by simp, ?_⟩
  intro x hx
  rw [List.mem_singleton.1 hx]
  norm_num

theorem witness_AlphaFilterIsInsideTheUnitIntervalInRef : (0 : ℝ) < 200000 ∧ (0 : ℝ) < 5 / 1000000 := by
  constructor <;> norm_num

/-- Parameters whose exponential is always `+0`. -/
def zeroExp : Params := { pep with exp := fun _ => 0 }

theorem witness_AlphaFilterIsInTheUnitIntervalInB32 :
    ExpRange zeroExp ∧ (b32 zeroExp).fgt 0x48435000 0 = true ∧ (b32 zeroExp).fgt 0x36A7C5AC 0 = true := by
  refine ⟨fun t _ _ => ?_, by decide, by decide⟩
  show F32.isNaN 0#32 = false ∧ F32.lt 0#32 Config.zero = false ∧ F32.gt 0#32 Config.one = false
  decide

/-- Section 2.4: not clamped, clamped above. -/
theorem witness_DetectedErrorIsBounded :
    F32.isNaN (atan2Of pep 0x3F800000 0x3F800000) = false ∧
    F32.isNaN (atan2Of pep 0x00000000 0xBF800000) = false ∧
    (b32 pep).fgt (atan2Of pep 0x00000000 0xBF800000) 0x3FC90FDB = true := by decide

/-- R120 (c): two zeros, of different signs. -/
theorem witness_DetectAnswersTheSaturatedArctangent :
    (runningWith p1Regs 0x00000000 0x80000000).running = true ∧
    F32.isZero (runningWith p1Regs 0x00000000 0x80000000).operands.a = true ∧
    F32.isZero (runningWith p1Regs 0x00000000 0x80000000).operands.b = true := by decide

theorem witness_DetectedErrorIsBounded_below :
    (b32 { pep with atan2Approx := fun _ _ => 0xC0490FDB }).flt
      (atan2Of { pep with atan2Approx := fun _ _ => 0xC0490FDB } 0x80000000 0xBF800000) 0xBFC90FDB = true := by
  decide

/-- For the statements of `PROCESS` with its samples written: batches of one sample, and of none. -/
theorem witness_ProcessRunsThePipelineOverTheBatch :
    (oneSample.running = true ∧ (1#16).toNat ≤ Config.params.maxN ∧
      [(⟨0x3F800000, 0x00000000⟩ : Cpx Word)].length = (1#16).toNat ∧
      oneSample.holds [⟨0x3F800000, 0x00000000⟩]) ∧
    (State.reset.holds [] ∧ (0#16).toNat ≤ Config.params.maxN) :=
  ⟨⟨by decide, maxN_pos _, by decide, oneSample_holds⟩, ⟨fun _ _ h => by simp at h, Nat.zero_le _⟩⟩

/-- The first and the last word of a batch of one sample. -/
theorem witness_ProcessFaultsOnTheFirstUnwrittenWord :
    ((runningWith Regs.reset 0 0).running = true ∧ (1#16).toNat ≤ Config.params.maxN ∧
      (runningWith Regs.reset 0 0).ibuf.readWord 0 = none) ∧
    (∃ s : State, s.running = true ∧ s.ibuf.readWord 1 = none ∧
      ∀ i, i < 1 → (s.ibuf.readWord i).isSome = true) :=
  ⟨⟨by decide, maxN_pos _, by decide⟩,
    ⟨{ runningWith Regs.reset 0 0 with ibuf := Memory.writeWord [] 0 1 }, by decide, by decide, by decide⟩⟩

/-- The hypotheses of the outer statement and of the split into one sample and none. -/
theorem witness_BatchingDoesNotChangeTheOutputs :
    oneSample.running = true ∧ oneSample.holds [⟨0x3F800000, 0x00000000⟩] ∧
    (1#16).toNat ≤ Config.params.maxN ∧ (1#16).toNat + (0#16).toNat = (1#16).toNat ∧
    oneSample.holds ([(⟨0x3F800000, 0x00000000⟩ : Cpx Word)].take (1#16).toNat) :=
  ⟨by decide, oneSample_holds, maxN_pos _, by decide, oneSample_holds⟩

/-- P2: a sample that leaves no NaN. -/
theorem witness_HandSequencingAgreesWithSample :
    (runningWith p2Regs 0 0).running = true ∧
    (regsOf (sampleCmd pep ((runningWith p2Regs 0 0).setOperands ⟨0x3F000000, 0xBE800000, 0⟩))).map
      (fun r => F32.isNaN r.phase || F32.isNaN r.freq || F32.isNaN r.accRe || F32.isNaN r.accIm) =
      some false := by decide

/-- Two states that agree in phase, frequency and operands and differ in the accumulator and the gains. -/
theorem witness_OutputIgnoresTheFeedbackState :
    (runningWith p1Regs 1 2).running = true ∧
    (runningWith { p1Regs with accRe := 5, alphaLoop := 7 } 1 2).running = true ∧
    (runningWith p1Regs 1 2).regs.phase =
      (runningWith { p1Regs with accRe := 5, alphaLoop := 7 } 1 2).regs.phase := by decide

theorem witness_FirstSampleIsAQuarterTurn :
    ExactAtZero pep ∧ (freshWith 0x48435000 0 0).running = false ∧
    (b32 pep).fgt (freshWith 0x48435000 0 0).operands.a 0 = true ∧
    (b32 pep).fgt (freshWith 0x48435000 0 0).regs.timeConstant 0 = true := by
  refine ⟨⟨by decide, by decide⟩, by decide, by decide, by decide⟩

theorem witness_LockIsAFixedPointInRef :
    ∃ (A theta : ℝ) (r : Regs ℝ), 0 < A ∧ r.phase + r.freq = theta + Real.pi / 2 ∧ r.accRe = A ∧
      r.accIm = 0 :=
  ⟨1, 0, ⟨Real.pi / 2, 0, 1, 0, 1 / 2, 0, 0, 0⟩, by norm_num, by norm_num, rfl, rfl⟩

/-- The first sample of P1, whose error stands at the upper bound. -/
theorem witness_FeedbackOfOneSampleIsBounded :
    p1Regs.alphaLoop = 0x3951B717#32 ∧ p1Regs.betaLoop = 0x322BCC76#32 ∧
    F32.isNaN (detectPhase (b32 pep) ⟨(pipe (b32 pep) 0 p1Regs ⟨0x3F800000, 0⟩).1.accRe,
      (pipe (b32 pep) 0 p1Regs ⟨0x3F800000, 0⟩).1.accIm⟩) = false := by decide +kernel

theorem witness_RegistersChangeOnlyByTheirWriters :
    (∃ t, exec .setfreq (runningWith Regs.reset 1 0) = .next t) ∧ writtenBy .phase .setfreq = false :=
  ⟨⟨_, rfl⟩, by decide⟩

/-- `RESET`, a success that is no `RESET`, and an error. -/
theorem witness_StatusChangesOnlyAsStated :
    (∃ t, exec .reset oneSample = .next t) ∧
    (∃ t r, exec .nop oneSample = .next t ∧ t.response = some r ∧ r.status = 0x00#8) ∧
    (∃ t, exec .step State.reset = .next t) := ⟨⟨_, rfl⟩, ⟨_, _, rfl, rfl, rfl⟩, ⟨_, rfl⟩⟩

/-- A batch that answers, and an error response. -/
theorem witness_BuffersChangeOnlyByProcess :
    (∃ t, exec (.process 0) State.reset = .next t) ∧
    (processCmd pep 0 oneSample = .next (okAnswer 0 0 oneSample)) ∧
    (∃ t r, exec (.process 1) State.reset = .next t ∧ t.response = some r ∧ r.status ≠ 0x00#8) :=
  ⟨⟨_, rfl⟩, rfl, ⟨_, _, rfl, rfl, by decide⟩⟩

theorem reset_inv : State.reset.Inv where
  ibuf_wf := List.Pairwise.nil
  obuf_wf := List.Pairwise.nil
  ibuf_whole := Memory.nil_whole
  obuf_whole := Memory.nil_whole
  ibuf_inRange := fun _ h => by cases h
  obuf_inRange := fun _ h => by cases h
  reserved_zero := by decide
  unconfigured_reset := fun _ => by decide
  running_timeConstant := fun h => by revert h; decide
  response_legal := fun _ h => by cases h

theorem witness_StepKeepsTheInvariant : State.reset.Inv ∧ ∃ t, step State.reset = .next t :=
  ⟨reset_inv, _, rfl⟩

theorem witness_NaNAccumulatorNeverRecovers :
    (∃ t, exec .nop (runningWith { p1Regs with accRe := 0x7FC00000, accIm := 0xFFFFFFFF } 0 0) = .next t) ∧
    F32.isNaN 0x7FC00000 = true ∧ F32.isNaN 0xFFFFFFFF = true := ⟨⟨_, rfl⟩, by decide, by decide⟩

theorem witness_NaNSamplePoisonsTheAccumulator :
    (runningWith p1Regs 0x7FC00000 0).running = true ∧
    F32.isNaN (runningWith p1Regs 0x7FC00000 0).operands.a = true ∧
    F32.isNaN (runningWith p1Regs 0 0x7F800001).operands.b = true := by decide

theorem witness_CoresAreIndependent :
    (0 : Nat) ≠ 1 ∧ ([.next oneSample, .fault (.noSuchWord 9)] : List Result)[0]? = some (.next oneSample) :=
  ⟨by decide, rfl⟩

/-- R182: two cores at the same draw count may draw different NaNs, and a core steps on beside a stopped
one. -/
theorem test_cores_have_their_own_parameters :
    nanDraw pep 1 ≠ nanDraw { pep with freeNaN := fun _ => 5 } 1 ∧
    stepCore (fun _ => pep) 0 [.next (presenting 0x01000000 oneSample), .fault (.noSuchWord 9)] =
      [stepWith pep (presenting 0x01000000 oneSample), .fault (.noSuchWord 9)] := ⟨by decide, rfl⟩

/-- Finite operands at both ends of the format, and a divisor that is not zero. -/
theorem witness_correct_rounding :
    F32.isFinite 0x00000001 = true ∧ F32.isFinite 0xFF7FFFFF = true ∧ F32.isZero 0x00000001 = false ∧
    F32.isZero 0x80000000 = true := by decide

/-- A sum and a difference that are exactly 0. -/
theorem witness_AdditionIsCorrectlyRounded :
    realOf 0x3F800000#32 + realOf 0xBF800000#32 = 0 ∧ realOf 0x80000000#32 - realOf 0x00000000#32 = 0 := by
  have h1 : F32.value 0x3F800000#32 = 2 ^ 149 := by decide
  have h2 : F32.value 0xBF800000#32 = -2 ^ 149 := by decide
  have h3 : F32.value 0x80000000#32 = 0 := by decide
  have h4 : F32.value 0x00000000#32 = 0 := by decide
  constructor
  · rw [realOf, realOf, h1, h2]
    norm_num
  · rw [realOf, realOf, h3, h4]
    norm_num

/-- One pair of operands for each clause. -/
theorem witness_InfiniteOperandsGiveTheStandardResults :
    (F32.isInf 0x7F800000 = true ∧ F32.isInf 0xFF800000 = true ∧ F32.sign 0x7F800000 ≠ F32.sign 0xFF800000) ∧
    (F32.isInf 0x00000001 = false ∧ F32.isNaN 0xFF800000 = false ∧ F32.isZero 0x00000001 = false) := by decide

/-- Section 2.2: `fadd(+0, -0) = +0`, `fadd(-0, -0) = -0`. -/
theorem test_zero_sums :
    F32.add 0x7FC00000 0x00000000 0x80000000 = 0x00000000 ∧
    F32.add 0x7FC00000 0x80000000 0x80000000 = 0x80000000 := by decide

/-- Finite data, an infinity against the other bound, and a NaN. -/
theorem witness_ComparisonsAreTheRealOrder :
    F32.isNaN 0xFF800000 = false ∧ F32.isFinite 0x80000000 = true ∧ F32.isFinite 0x7F7FFFFF = true ∧ F32.isNaN 0x7F800001 = true := by decide

theorem witness_NaNsAreTheOnlyFreeResults :
    F32.isNaN (hw.fadd 0 0x3F800000 0x3F800000) = false ∧ F32.isNaN (hw.fsub 0 0x3F800000 0x3F800000) = false ∧
    F32.isNaN (hw.fmul 0 0x3F800000 0x3F800000) = false ∧
    F32.isNaN (hw.fdiv 0 0x3F800000 0x3F800000) = false := by decide

end Sys2Proof.Tests
end

section
/-! Binary32 patterns (R10): a pattern is its sign and its magnitude, the classes are read off the
magnitude, and the finite data are ordered as their magnitude patterns are. -/

namespace Sys2Proof.Machine.F32

/-! ### Sign and magnitude -/

theorem magField_eq_mod (w : Word) : magField w = w.toNat % 2 ^ 31 := by simp [magField]

theorem magField_lt (w : Word) : magField w < 2 ^ 31 := by
  rw [magField_eq_mod]
  exact Nat.mod_lt _ (by decide)

theorem toNat_eq_sign_magField (w : Word) : w.toNat = (sign w).toNat * 2 ^ 31 + magField w := by
  rw [magField_eq_mod, sign, BitVec.msb_eq_decide]
  have hw := w.isLt
  by_cases h : 2 ^ 31 ≤ w.toNat
  · rw [decide_eq_true h, Bool.toNat_true]
    omega
  · rw [decide_eq_false h, Bool.toNat_false]
    omega

theorem eq_of_sign_of_magField {v w : Word} (hs : sign v = sign w) (hm : magField v = magField w) : v = w := by
  apply BitVec.eq_of_toNat_eq
  rw [toNat_eq_sign_magField v, toNat_eq_sign_magField w, hs, hm]

theorem toNat_pack (s : Bool) (m : Nat) : (pack s m).toNat = s.toNat * 2 ^ 31 + m % 2 ^ 31 := by
  rw [pack, BitVec.toNat_append, ← Nat.shiftLeft_add_eq_or_of_lt (BitVec.isLt _), Nat.shiftLeft_eq,
    BitVec.toNat_ofBool, BitVec.toNat_ofNat]

@[simp] theorem sign_pack (s : Bool) (m : Nat) : sign (pack s m) = s := by
  rw [sign, BitVec.msb_eq_decide, toNat_pack]
  have := Nat.mod_lt m (show 2 ^ 31 > 0 by decide)
  cases s <;> simp
  all_goals omega

theorem magField_pack_mod (s : Bool) (m : Nat) : magField (pack s m) = m % 2 ^ 31 := by
  rw [magField_eq_mod, toNat_pack]
  omega

theorem magField_pack {m : Nat} (s : Bool) (h : m < 2 ^ 31) : magField (pack s m) = m := by
  rw [magField_pack_mod, Nat.mod_eq_of_lt h]

theorem eq_pack (w : Word) : w = pack (sign w) (magField w) :=
  eq_of_sign_of_magField (sign_pack ..).symm (magField_pack _ (magField_lt w)).symm

theorem eq_pack_iff {m : Nat} (hm : m < 2 ^ 31) (w : Word) (s : Bool) :
    w = pack s m ↔ sign w = s ∧ magField w = m := by
  constructor
  · rintro rfl
    exact ⟨sign_pack .., magField_pack s hm⟩
  · rintro ⟨rfl, rfl⟩
    exact eq_pack w

theorem getLsbD_zero_eq_odd (w : Word) : w.getLsbD 0 = decide (magField w % 2 = 1) := by
  rw [magField_eq_mod, BitVec.getLsbD, Nat.testBit_zero]
  congr 2
  omega

@[simp] theorem sign_neg (w : Word) : sign (neg w) = !sign w := by
  rw [sign, neg, BitVec.msb_xor, show (0x80000000#32).msb = true from by decide, Bool.xor_true, sign]

@[simp] theorem magField_neg (w : Word) : magField (neg w) = magField w := by
  simp [magField, neg, BitVec.extractLsb'_xor]

theorem neg_pack (s : Bool) (m : Nat) : neg (pack s m) = pack (!s) m :=
  eq_of_sign_of_magField (by simp) (by rw [magField_neg, magField_pack_mod, magField_pack_mod])

@[simp] theorem neg_neg_eq (w : Word) : neg (neg w) = w :=
  eq_of_sign_of_magField (by simp) (by simp)

/-! ### Classes -/

theorem isNaN_iff (w : Word) : isNaN w = true ↔ infMag < magField w := decide_eq_true_iff
theorem isNaN_eq_false_iff (w : Word) : isNaN w = false ↔ magField w ≤ infMag := by simp [isNaN]
theorem isInf_iff (w : Word) : isInf w = true ↔ magField w = infMag := beq_iff_eq
theorem isZero_iff (w : Word) : isZero w = true ↔ magField w = 0 := beq_iff_eq
theorem isFinite_iff (w : Word) : isFinite w = true ↔ magField w < infMag := decide_eq_true_iff

@[simp] theorem isNaN_neg (w : Word) : isNaN (neg w) = isNaN w := by simp [isNaN]
@[simp] theorem isInf_neg (w : Word) : isInf (neg w) = isInf w := by simp [isInf]
@[simp] theorem isFinite_neg (w : Word) : isFinite (neg w) = isFinite w := by simp [isFinite]

theorem isNaN_of_isFinite {w : Word} (h : isFinite w = true) : isNaN w = false :=
  (isNaN_eq_false_iff w).2 ((isFinite_iff w).1 h).le

theorem isInf_of_isFinite {w : Word} (h : isFinite w = true) : isInf w = false := by
  rw [isFinite_iff] at h
  simp [isInf, h.ne]

theorem isNaN_of_isInf {w : Word} (h : isInf w = true) : isNaN w = false :=
  (isNaN_eq_false_iff w).2 ((isInf_iff w).1 h).le

theorem isNaN_pack {m : Nat} (s : Bool) (h : m ≤ infMag) : isNaN (pack s m) = false := by
  rw [isNaN_eq_false_iff, magField_pack s (lt_of_le_of_lt h (by decide))]
  exact h

theorem eq_pack_of_isInf {w : Word} (h : isInf w = true) : w = pack (sign w) infMag := by
  rw [← (isInf_iff w).1 h]
  exact eq_pack w

theorem roundRatio_le (p q : Nat) : roundRatio p q ≤ infMag := Nat.min_le_right ..

/-! ### Magnitudes in units of 2^-149 -/

/-- The units that a magnitude pattern denotes, also past the last finite one, where a rounding that
overflows still compares. -/
def magUnits (m : Nat) : Nat := (m - (m / 2 ^ 23 - 1) * 2 ^ 23) * 2 ^ (m / 2 ^ 23 - 1)

/-- A significand of at most 24 bits, shifted. The significand 2^24 is the carry into the next binade. -/
theorem magUnits_shift_add {shift sig : Nat} (hn : shift = 0 ∨ 2 ^ 23 ≤ sig) (hs : sig ≤ 2 ^ 24) :
    magUnits (shift * 2 ^ 23 + sig) = sig * 2 ^ shift := by
  obtain rfl | hlt := hs.eq_or_lt
  · have hdiv : (shift * 2 ^ 23 + 2 ^ 24) / 2 ^ 23 - 1 = shift + 1 := by omega
    have hsub : shift * 2 ^ 23 + 2 ^ 24 - (shift + 1) * 2 ^ 23 = 2 ^ 23 := by omega
    rw [magUnits, hdiv, hsub, ← pow_add, ← pow_add]
    congr 1
    omega
  · have hdiv : (shift * 2 ^ 23 + sig) / 2 ^ 23 - 1 = shift := by omega
    rw [magUnits, hdiv, Nat.add_sub_cancel_left]

theorem magUnits_lt_succ (m : Nat) : magUnits m < magUnits (m + 1) := by
  obtain ⟨shift, sig, rfl, hn, hs⟩ :
      ∃ shift sig, m = shift * 2 ^ 23 + sig ∧ (shift = 0 ∨ 2 ^ 23 ≤ sig) ∧ sig < 2 ^ 24 :=
    ⟨m / 2 ^ 23 - 1, m - (m / 2 ^ 23 - 1) * 2 ^ 23, by omega, by omega, by omega⟩
  rw [add_assoc, magUnits_shift_add hn hs.le, magUnits_shift_add (by omega) (by omega)]
  exact Nat.mul_lt_mul_of_pos_right (Nat.lt_succ_self sig) (by positivity)

theorem magUnits_strictMono : StrictMono magUnits := strictMono_nat_of_lt_succ magUnits_lt_succ

@[simp] theorem magUnits_zero : magUnits 0 = 0 := rfl

theorem expField_eq_div (w : Word) : expField w = magField w / 2 ^ 23 := by
  rw [expField, BitVec.extractLsb'_toNat, magField_eq_mod, Nat.shiftRight_eq_div_pow]
  omega

theorem fracField_eq_mod (w : Word) : fracField w = magField w % 2 ^ 23 := by
  rw [fracField, BitVec.extractLsb'_toNat, magField_eq_mod, Nat.shiftRight_zero]
  omega

theorem units_eq_magUnits (w : Word) : units w = magUnits (magField w) := by
  rw [units, expField_eq_div, fracField_eq_mod, magUnits]
  split
  · rename_i h
    simp only [h, Nat.zero_sub, pow_zero, mul_one, Nat.zero_mul, Nat.sub_zero]
    omega
  · congr 1
    omega

theorem units_eq_zero_iff (w : Word) : units w = 0 ↔ isZero w = true := by
  rw [units_eq_magUnits, isZero_iff]
  exact magUnits_strictMono.injective.eq_iff' magUnits_zero

@[simp] theorem value_neg (w : Word) : value (neg w) = -value w := by
  rw [value, value, sign_neg, units_eq_magUnits, units_eq_magUnits, magField_neg]
  cases sign w <;> simp

/-- No datum lies strictly between two neighbouring magnitudes. -/
theorem value_le_or_ge (w : Word) (m : Nat) : value w ≤ magUnits m ∨ (magUnits (m + 1) : Int) ≤ value w := by
  rw [value, units_eq_magUnits]
  split
  · omega
  · have := magUnits_strictMono.le_iff_le (a := magField w) (b := m)
    have := magUnits_strictMono.le_iff_le (a := m + 1) (b := magField w)
    omega

/-! ### The order -/

theorem key_lt_key_iff_value_lt_value (a b : Word) : key a < key b ↔ value a < value b := by
  have hlt := magUnits_strictMono.lt_iff_lt (a := magField a) (b := magField b)
  have hgt := magUnits_strictMono.lt_iff_lt (a := magField b) (b := magField a)
  have ha := magUnits_strictMono.lt_iff_lt (a := 0) (b := magField a)
  have hb := magUnits_strictMono.lt_iff_lt (a := 0) (b := magField b)
  rw [magUnits_zero] at ha hb
  rw [key, key, value, value, units_eq_magUnits, units_eq_magUnits]
  cases sign a <;> cases sign b <;> simp <;> omega

theorem lt_iff_key_lt_key {a b : Word} (ha : isNaN a = false) (hb : isNaN b = false) :
    lt a b = true ↔ key a < key b := by simp [lt, ha, hb]

/-- The infinities' keys bound the key of every datum that is no NaN. -/
theorem natAbs_key_le {a : Word} (ha : isNaN a = false) : (key a).natAbs ≤ infMag := by
  rw [isNaN_eq_false_iff] at ha
  rw [key]
  cases sign a <;> simpa using ha

theorem key_lt_infMag_iff {a : Word} (ha : isNaN a = false) : key a < infMag ↔ a ≠ pack false infMag := by
  have hpos : 0 < infMag := by decide
  rw [isNaN_eq_false_iff] at ha
  rw [ne_eq, eq_pack_iff (by decide), key]
  cases sign a <;> simp <;> omega

theorem neg_infMag_lt_key_iff {a : Word} (ha : isNaN a = false) :
    -(infMag : Int) < key a ↔ a ≠ pack true infMag := by
  have hpos : 0 < infMag := by decide
  rw [isNaN_eq_false_iff] at ha
  rw [ne_eq, eq_pack_iff (by decide), key]
  cases sign a <;> simp <;> omega

end Sys2Proof.Machine.F32
end

section
/-! `roundRatio` is rounding to nearest, ties to even (R6): the exact ratio lies between two neighbouring
magnitudes, the nearer one is answered, and the one with an even pattern when they are equally near. -/

namespace Sys2Proof.Machine.F32

/-! ### The neighbours of a ratio -/

/-- The exponent of the last significand bit of `p / q` units: what `roundRatio` shifts out. -/
def ratioShift (p q : Nat) : Nat := Nat.log2 (p / q) - 23

/-- What `p` is divided by for the truncated significand. -/
def ratioDen (p q : Nat) : Nat := q * 2 ^ ratioShift p q

theorem ratioDen_pos (p : Nat) {q : Nat} (hq : 0 < q) : 0 < ratioDen p q := by
  rw [ratioDen]
  positivity

/-- The largest magnitude pattern at or below `p / q` units. -/
def floorMag (p q : Nat) : Nat := ratioShift p q * 2 ^ 23 + p / ratioDen p q

/-- The truncated significand has 24 bits, fewer only below 2^24 units. -/
theorem significand_bounds (p q : Nat) :
    (ratioShift p q = 0 ∨ 2 ^ 23 ≤ p / ratioDen p q) ∧ p / ratioDen p q < 2 ^ 24 := by
  rw [ratioDen, ← Nat.div_div_eq_div_mul, ratioShift]
  by_cases h : Nat.log2 (p / q) ≤ 23
  · rw [Nat.sub_eq_zero_of_le h, pow_zero, Nat.div_one]
    exact ⟨.inl rfl, lt_of_lt_of_le Nat.lt_log2_self (Nat.pow_le_pow_right (by decide) (by omega))⟩
  · have hne : p / q ≠ 0 := by
      intro h0
      rw [h0] at h
      exact h (by decide)
    constructor
    · refine .inr ((Nat.le_div_iff_mul_le (by positivity)).2 ?_)
      rw [← pow_add, Nat.add_sub_cancel' (by omega)]
      exact Nat.log2_self_le hne
    · rw [Nat.div_lt_iff_lt_mul (by positivity), ← pow_add]
      exact lt_of_lt_of_le Nat.lt_log2_self (Nat.pow_le_pow_right (by decide) (by omega))

theorem magUnits_floorMag (p q : Nat) :
    magUnits (floorMag p q) = p / ratioDen p q * 2 ^ ratioShift p q :=
  magUnits_shift_add (significand_bounds p q).1 (significand_bounds p q).2.le

theorem magUnits_floorMag_succ (p q : Nat) :
    magUnits (floorMag p q + 1) = (p / ratioDen p q + 1) * 2 ^ ratioShift p q := by
  obtain ⟨hn, hs⟩ := significand_bounds p q
  rw [floorMag, add_assoc, magUnits_shift_add (by omega) (by omega)]

theorem magUnits_floorMag_le (p q : Nat) : magUnits (floorMag p q) * q ≤ p := by
  rw [magUnits_floorMag, mul_assoc, mul_comm _ q, ← ratioDen]
  exact Nat.div_mul_le_self ..

theorem lt_magUnits_floorMag_succ (p : Nat) {q : Nat} (hq : 0 < q) :
    p < magUnits (floorMag p q + 1) * q := by
  rw [magUnits_floorMag_succ, mul_assoc, mul_comm _ q, ← ratioDen, mul_comm]
  exact Nat.lt_mul_div_succ p (ratioDen_pos p hq)

/-- `p / q` units is rounded up: it lies past the middle of its neighbours, or in the middle with the lower
one's pattern odd. -/
def RoundsUp (p q : Nat) : Prop :=
  (magUnits (floorMag p q) + magUnits (floorMag p q + 1)) * q < 2 * p ∨
    ((magUnits (floorMag p q) + magUnits (floorMag p q + 1)) * q = 2 * p ∧ floorMag p q % 2 = 1)

theorem roundRatio_eq (p q : Nat) :
    (RoundsUp p q ∧ roundRatio p q = min (floorMag p q + 1) infMag) ∨
    (¬RoundsUp p q ∧ roundRatio p q = min (floorMag p q) infMag) := by
  have hmid : (magUnits (floorMag p q) + magUnits (floorMag p q + 1)) * q + 2 * (p % ratioDen p q) =
      2 * p + ratioDen p q := by
    rw [magUnits_floorMag, magUnits_floorMag_succ]
    have hp := Nat.div_add_mod p (ratioDen p q)
    have hden : ratioDen p q = q * 2 ^ ratioShift p q := rfl
    linear_combination 2 * hp - (2 * (p / ratioDen p q) + 1) * hden
  have hodd : floorMag p q % 2 = p / ratioDen p q % 2 := by
    rw [floorMag]
    omega
  have hup : RoundsUp p q ↔ (decide (ratioDen p q < 2 * (p % ratioDen p q)) ||
      (2 * (p % ratioDen p q) == ratioDen p q && p / ratioDen p q % 2 == 1)) = true := by
    rw [RoundsUp, hodd]
    simp only [Bool.or_eq_true, Bool.and_eq_true, decide_eq_true_eq, beq_iff_eq]
    omega
  simp only [roundRatio]
  split
  · rename_i h
    exact .inl ⟨hup.2 h, by rw [floorMag, add_assoc]; rfl⟩
  · rename_i h
    exact .inr ⟨mt hup.1 h, rfl⟩

/-! ### Overflow -/

theorem magUnits_infMag : magUnits infMag = 33554432 * 2 ^ 252 := by decide

/-- The largest finite magnitude: its pattern is odd, so the middle between it and 2^128 is rounded up. -/
theorem exists_maxFinite :
    ∃ k, infMag = k + 1 ∧ k % 2 = 1 ∧ magUnits k = 33554430 * 2 ^ 252 :=
  ⟨infMag - 1, by decide, by decide, by decide⟩

/-- Rounding overflows from the middle between the largest finite magnitude and 2^128 on. -/
theorem roundRatio_eq_infMag_iff (p : Nat) {q : Nat} (hq : 0 < q) :
    roundRatio p q = infMag ↔ 33554431 * 2 ^ 252 * q ≤ p := by
  have hle := magUnits_floorMag_le p q
  have hlt := lt_magUnits_floorMag_succ p hq
  have hcases := roundRatio_eq p q
  have hover := congrArg (· * q) magUnits_infMag
  obtain ⟨k, hk, hodd, hmax⟩ := exists_maxFinite
  replace hmax := congrArg (· * q) hmax
  simp only [hk, mul_assoc] at hcases hover hmax ⊢
  rw [RoundsUp] at hcases
  generalize floorMag p q = m at hle hlt hcases
  generalize roundRatio p q = r at hcases ⊢
  generalize 2 ^ 252 * q = c at hmax hover ⊢
  rcases lt_trichotomy m k with h | rfl | h
  · have hU : magUnits (m + 1) * q ≤ magUnits k * q :=
      Nat.mul_le_mul_right q (magUnits_strictMono.monotone h)
    omega
  · rw [add_mul, hmax, hover] at hcases
    omega
  · have hU : magUnits (k + 1) * q ≤ magUnits m * q :=
      Nat.mul_le_mul_right q (magUnits_strictMono.monotone h)
    omega

/-! ### Nearness -/

/-- The nearer end of a bracket is nearest among the points outside its interior; another one is as near
only when the bracketed point is the middle. -/
theorem nearest_of_bracket {L H t v r : ℝ} (hL : L ≤ t) (hH : t ≤ H) (hv : v ≤ L ∨ H ≤ v)
    (hr : (r = L ∧ 2 * t ≤ L + H) ∨ (r = H ∧ L + H ≤ 2 * t)) :
    |r - t| ≤ |v - t| ∧ (|r - t| = |v - t| → v ≠ r → L + H = 2 * t) := by
  rcases hr with ⟨rfl, hm⟩ | ⟨rfl, hm⟩ <;> rcases hv with hv | hv
  · rw [abs_of_nonpos (by linarith), abs_of_nonpos (by linarith)]
    exact ⟨by linarith, fun he hne => absurd (by linarith) hne⟩
  · rw [abs_of_nonpos (by linarith), abs_of_nonneg (by linarith)]
    exact ⟨by linarith, fun he _ => by linarith⟩
  · rw [abs_of_nonneg (by linarith), abs_of_nonpos (by linarith)]
    exact ⟨by linarith, fun he _ => by linarith⟩
  · rw [abs_of_nonneg (by linarith), abs_of_nonneg (by linarith)]
    exact ⟨by linarith, fun he hne => absurd (by linarith) hne⟩

theorem natCast_le_ratio_iff (n p : Nat) {q : Nat} (hq : 0 < q) : (n : ℝ) ≤ (p : ℝ) / q ↔ n * q ≤ p := by
  rw [le_div_iff₀ (by exact_mod_cast hq)]
  exact_mod_cast Iff.rfl

theorem ratio_le_natCast_iff (n p : Nat) {q : Nat} (hq : 0 < q) : (p : ℝ) / q ≤ n ↔ p ≤ n * q := by
  rw [div_le_iff₀ (by exact_mod_cast hq)]
  exact_mod_cast Iff.rfl

/-- No finite datum is nearer to `p / q` units than the rounded one, and where another one is as near the
rounded pattern is even. -/
theorem roundRatio_nearest (p : Nat) {q : Nat} (hq : 0 < q) (hfin : roundRatio p q ≠ infMag) (z : Word) :
    |(magUnits (roundRatio p q) : ℝ) - p / q| ≤ |(value z : ℝ) - p / q| ∧
    (|(magUnits (roundRatio p q) : ℝ) - p / q| = |(value z : ℝ) - p / q| →
      (value z : ℝ) ≠ magUnits (roundRatio p q) → roundRatio p q % 2 = 0) := by
  have hL := (natCast_le_ratio_iff _ p hq).2 (magUnits_floorMag_le p q)
  have hH := (ratio_le_natCast_iff _ p hq).2 (lt_magUnits_floorMag_succ p hq).le
  have hv : (value z : ℝ) ≤ magUnits (floorMag p q) ∨ (magUnits (floorMag p q + 1) : ℝ) ≤ value z := by
    exact_mod_cast value_le_or_ge z (floorMag p q)
  have hbelow := ratio_le_natCast_iff (magUnits (floorMag p q) + magUnits (floorMag p q + 1)) (2 * p) hq
  have habove := natCast_le_ratio_iff (magUnits (floorMag p q) + magUnits (floorMag p q + 1)) (2 * p) hq
  push_cast [mul_div_assoc] at hbelow habove
  have hmid (h : (magUnits (floorMag p q) + magUnits (floorMag p q + 1) : ℝ) = 2 * (p / q)) :=
    le_antisymm (habove.1 h.le) (hbelow.1 h.ge)
  rcases roundRatio_eq p q with ⟨hup, hr⟩ | ⟨hup, hr⟩ <;> rw [RoundsUp] at hup
  · rw [show roundRatio p q = floorMag p q + 1 by omega]
    obtain ⟨hle, htie⟩ := nearest_of_bracket hL hH hv (.inr ⟨rfl, habove.2 (by omega)⟩)
    refine ⟨hle, fun he hne => ?_⟩
    have := hmid (htie he hne)
    omega
  · rw [show roundRatio p q = floorMag p q by omega]
    obtain ⟨hle, htie⟩ := nearest_of_bracket hL hH hv (.inl ⟨rfl, hbelow.2 (by omega)⟩)
    refine ⟨hle, fun he hne => ?_⟩
    have := hmid (htie he hne)
    omega

/-! ### Correct rounding -/

/-- The factor that a sign bit stands for. -/
def signFactor (s : Bool) : Int := if s then -1 else 1

theorem signFactor_xor (s t : Bool) : signFactor (s ^^ t) = signFactor s * signFactor t := by
  cases s <;> cases t <;> rfl

theorem value_eq (w : Word) : value w = signFactor (sign w) * units w := by
  rw [value]
  cases sign w <;> simp [signFactor]

theorem realOf_eq (w : Word) : realOf w = signFactor (sign w) * (units w / 2 ^ 149) := by
  rw [realOf, value_eq]
  push_cast
  ring

theorem realOf_neg (w : Word) : realOf (neg w) = -realOf w := by
  rw [realOf, realOf, value_neg]
  push_cast
  ring

theorem realOf_pack_false {m : Nat} (h : m < 2 ^ 31) : realOf (pack false m) = magUnits m / 2 ^ 149 := by
  rw [realOf_eq, units_eq_magUnits, sign_pack, magField_pack _ h]
  simp [signFactor]

/-- Rounding is symmetric in the sign. -/
theorem roundsTo_neg {x : ℝ} {w : Word} (h : RoundsTo x w) : RoundsTo (-x) (neg w) := by
  obtain ⟨hpos, hneg, hinf, hninf, hnear⟩ := h
  have hdist (v : Word) : |realOf v - -x| = |realOf (neg v) - x| := by
    rw [realOf_neg, ← abs_neg]
    congr 1
    ring
  refine ⟨fun hx => ?_, fun hx => ?_, fun hx => ?_, fun hx => ?_, fun hx => ?_⟩
  · rw [sign_neg, hneg (by linarith), Bool.not_true]
  · rw [sign_neg, hpos (by linarith), Bool.not_false]
  · rw [hninf (by linarith), neg_pack, Bool.not_true]
  · rw [hinf (by linarith), neg_pack, Bool.not_false]
  · obtain ⟨hfin, hall⟩ := hnear (by rwa [abs_neg] at hx)
    refine ⟨by rwa [isFinite_neg], fun z hz => ?_⟩
    obtain ⟨hle, htie⟩ := hall (neg z) (by rwa [isFinite_neg])
    rw [hdist, hdist, neg_neg_eq, getLsbD_zero_eq_odd, magField_neg, ← getLsbD_zero_eq_odd]
    exact ⟨hle, fun he hne => htie he fun h => hne (by rw [realOf_neg w, ← h, realOf_neg, neg_neg])⟩

theorem roundsTo_roundRatio (p : Nat) {q : Nat} (hq : 0 < q) :
    RoundsTo ((p / q : ℝ) / 2 ^ 149) (pack false (roundRatio p q)) := by
  have hover : (2 : ℝ) ^ 128 - 2 ^ 103 ≤ (p / q : ℝ) / 2 ^ 149 ↔ roundRatio p q = infMag := by
    rw [roundRatio_eq_infMag_iff p hq, ← natCast_le_ratio_iff _ p hq, le_div_iff₀ (by positivity)]
    norm_num
  have hnonneg : 0 ≤ (p / q : ℝ) / 2 ^ 149 := by positivity
  refine ⟨fun _ => sign_pack .., fun h => absurd h hnonneg.not_gt, fun h => by rw [hover.1 h],
    fun h => ?_, fun h => ?_⟩
  · have : (0 : ℝ) < 2 ^ 128 - 2 ^ 103 := by norm_num
    linarith
  · rw [abs_of_nonneg hnonneg] at h
    have hfin : roundRatio p q ≠ infMag := fun he => (hover.2 he).not_gt h
    have hlt : roundRatio p q < infMag := lt_of_le_of_ne (roundRatio_le p q) hfin
    have hlt31 : roundRatio p q < 2 ^ 31 := hlt.trans (by decide)
    refine ⟨by rwa [isFinite_iff, magField_pack _ hlt31], fun z _ => ?_⟩
    obtain ⟨hle, htie⟩ := roundRatio_nearest p hq hfin z
    have hscale : (0 : ℝ) < 2 ^ 149 := by positivity
    rw [realOf_pack_false hlt31, realOf, ← sub_div, ← sub_div, abs_div, abs_div, abs_of_pos hscale,
      div_le_div_iff_of_pos_right hscale, div_left_inj' hscale.ne', ne_eq, div_left_inj' hscale.ne',
      getLsbD_zero_eq_odd, magField_pack _ hlt31]
    exact ⟨hle, fun he hne => by simp [htie he hne]⟩

/-- The rounded magnitude with a sign is the signed ratio, correctly rounded. -/
theorem roundsTo_signed (s : Bool) (p : Nat) {q : Nat} (hq : 0 < q) :
    RoundsTo (signFactor s * ((p / q : ℝ) / 2 ^ 149)) (pack s (roundRatio p q)) := by
  have h := roundsTo_roundRatio p hq
  cases s with
  | false => simpa [signFactor] using h
  | true => simpa [signFactor, neg_pack] using roundsTo_neg h

end Sys2Proof.Machine.F32
end

section
/-! What the four operations of R6 answer: one equation per kind of operands (finite, infinite, invalid),
and from these when they answer a NaN. -/

namespace Sys2Proof.Machine.F32

/-! ### Classes exclude each other -/

theorem isFinite_of_not {w : Word} (hn : isNaN w = false) (hi : isInf w = false) : isFinite w = true := by
  rw [isNaN_eq_false_iff] at hn
  exact (isFinite_iff w).2 (lt_of_le_of_ne hn (by simpa [isInf] using hi))

theorem isFinite_of_isZero {w : Word} (h : isZero w = true) : isFinite w = true := by
  rw [isFinite_iff, (isZero_iff w).1 h]
  decide

theorem isZero_of_isInf {w : Word} (h : isInf w = true) : isZero w = false := by
  rw [isInf_iff] at h
  simp [isZero, h, infMag]

/-! ### Finite operands -/

theorem signFactor_mul_natAbs (x : Int) : signFactor (decide (x < 0)) * x.natAbs = x := by
  by_cases h : x < 0
  · rw [decide_eq_true h, Int.ofNat_natAbs_of_nonpos h.le, signFactor, if_pos rfl]
    omega
  · rw [decide_eq_false h, Int.natAbs_of_nonneg (by omega), signFactor, if_neg Bool.false_ne_true, one_mul]

section finite
variable (nan : Word) {a b : Word} (ha : isFinite a = true) (hb : isFinite b = true)
include ha hb

theorem add_of_isFinite : add nan a b =
    if value a + value b = 0 then pack (sign a && sign b) 0
    else pack (decide (value a + value b < 0)) (roundRatio (value a + value b).natAbs 1) := by
  simp [add, isNaN_of_isFinite, isInf_of_isFinite, ha, hb]

theorem mul_of_isFinite :
    mul nan a b = pack (sign a ^^ sign b) (roundRatio (units a * units b) (2 ^ 149)) := by
  simp [mul, isNaN_of_isFinite, isInf_of_isFinite, ha, hb]

theorem div_of_isFinite (h0 : isZero b = false) :
    div nan a b = pack (sign a ^^ sign b) (roundRatio (units a * 2 ^ 149) (units b)) := by
  simp [div, isNaN_of_isFinite, isInf_of_isFinite, ha, hb, h0]

theorem div_of_isZero (h0 : isZero b = true) (ha0 : isZero a = false) :
    div nan a b = pack (sign a ^^ sign b) infMag := by
  simp [div, isNaN_of_isFinite, isInf_of_isFinite, ha, hb, h0, ha0]

/-- An exact zero sum is `-0` only for two negative zeros: two terms that cancel differ in sign. -/
theorem add_of_sum_zero (h : value a + value b = 0) : add nan a b = pack (sign a && sign b) 0 := by
  rw [add_of_isFinite nan ha hb, if_pos h]

theorem roundsTo_add : RoundsTo (realOf a + realOf b) (add nan a b) := by
  have hsum : realOf a + realOf b = ((value a + value b : Int) : ℝ) / 2 ^ 149 := by
    rw [realOf, realOf, ← add_div, Int.cast_add]
  rw [hsum]
  by_cases h : value a + value b = 0
  · have hr := roundsTo_signed (sign a && sign b) 0 one_pos
    rw [add_of_sum_zero nan ha hb h, h]
    simpa [show roundRatio 0 1 = 0 from rfl] using hr
  · have hr := roundsTo_signed (decide (value a + value b < 0)) (value a + value b).natAbs one_pos
    rw [add_of_isFinite nan ha hb, if_neg h]
    convert hr using 1
    rw [Nat.cast_one, div_one, ← mul_div_assoc]
    congr 1
    rw [← Int.cast_natCast, ← Int.cast_mul, signFactor_mul_natAbs]

theorem roundsTo_mul : RoundsTo (realOf a * realOf b) (mul nan a b) := by
  have hr := roundsTo_signed (sign a ^^ sign b) (units a * units b) (show 0 < 2 ^ 149 by decide)
  rw [mul_of_isFinite nan ha hb]
  convert hr using 1
  rw [realOf_eq, realOf_eq, signFactor_xor]
  push_cast
  ring

theorem roundsTo_div (h0 : isZero b = false) : RoundsTo (realOf a / realOf b) (div nan a b) := by
  have hu : 0 < units b := Nat.pos_of_ne_zero fun h => by
    rw [(units_eq_zero_iff b).1 h] at h0
    cases h0
  have hr := roundsTo_signed (sign a ^^ sign b) (units a * 2 ^ 149) hu
  rw [div_of_isFinite nan ha hb h0]
  convert hr using 1
  have hu' : (units b : ℝ) ≠ 0 := by exact_mod_cast hu.ne'
  rw [realOf_eq, realOf_eq, signFactor_xor]
  push_cast
  cases sign b <;> simp only [signFactor] <;> field_simp <;> norm_num

end finite

/-! ### Infinite operands -/

section infinite
variable (nan : Word) {a b : Word}

theorem add_of_isInf_left (ha : isInf a = true) (hb : isNaN b = false)
    (h : isInf b = false ∨ sign a = sign b) : add nan a b = a := by
  rcases h with h | h <;> simp [add, isNaN_of_isInf ha, ha, hb, h]

theorem add_of_isInf_right (ha : isNaN a = false) (hb : isInf b = true)
    (h : isInf a = false ∨ sign a = sign b) : add nan a b = b := by
  rcases h with h | h
  · simp [add, isNaN_of_isInf hb, ha, hb, h]
  · cases hi : isInf a with
    | false => simp [add, isNaN_of_isInf hb, ha, hb, hi]
    | true =>
      rw [add_of_isInf_left nan hi (isNaN_of_isInf hb) (.inr h), eq_pack_of_isInf hi, eq_pack_of_isInf hb, h]

/-- An infinity times a datum that is no zero is the infinity with the product's sign. -/
theorem mul_of_isInf (ha : isNaN a = false) (hb : isNaN b = false)
    (h : (isInf a = true ∧ isZero b = false) ∨ (isInf b = true ∧ isZero a = false)) :
    mul nan a b = pack (sign a ^^ sign b) infMag := by
  rcases h with ⟨hi, hz⟩ | ⟨hi, hz⟩ <;> simp [mul, ha, hb, hi, hz, isZero_of_isInf hi]

theorem div_of_isInf_left (ha : isInf a = true) (hb : isNaN b = false) (hbi : isInf b = false) :
    div nan a b = pack (sign a ^^ sign b) infMag := by
  simp [div, isNaN_of_isInf ha, ha, hb, hbi]

theorem div_of_isInf_right (ha : isNaN a = false) (hai : isInf a = false) (hb : isInf b = true) :
    div nan a b = pack (sign a ^^ sign b) 0 := by
  simp [div, isNaN_of_isInf hb, ha, hai, hb]

end infinite

/-- The infinity whose sign is the exclusive or of two. -/
theorem pack_xor_infMag (s t : Bool) :
    pack (s ^^ t) infMag = if s = t then 0x7F800000#32 else 0xFF800000#32 := by
  cases s <;> cases t <;> rfl

/-- The zero whose sign is the exclusive or of two. -/
theorem pack_xor_zero (s t : Bool) : pack (s ^^ t) 0 = if s = t then 0x00000000#32 else 0x80000000#32 := by
  cases s <;> cases t <;> rfl

/-- The zero whose sign is the conjunction of two. -/
theorem pack_and_zero (s t : Bool) :
    pack (s && t) 0 = if s = true ∧ t = true then 0x80000000#32 else 0x00000000#32 := by
  cases s <;> cases t <;> rfl

/-! ### NaNs -/

/-- The operands of which IEEE 754 has no sum. -/
def InvalidSum (a b : Word) : Prop :=
  isNaN a = true ∨ isNaN b = true ∨ (isInf a = true ∧ isInf b = true ∧ sign a ≠ sign b)

/-- The operands of which IEEE 754 has no product. -/
def InvalidProduct (a b : Word) : Prop :=
  isNaN a = true ∨ isNaN b = true ∨ (isInf a = true ∧ isZero b = true) ∨ (isZero a = true ∧ isInf b = true)

/-- The operands of which IEEE 754 has no quotient. -/
def InvalidQuotient (a b : Word) : Prop :=
  isNaN a = true ∨ isNaN b = true ∨ (isInf a = true ∧ isInf b = true) ∨ (isZero a = true ∧ isZero b = true)

/-- An operation, as a function of the NaN it is offered, answers that NaN on invalid operands and
otherwise one datum that is no NaN. -/
def TakesNaNExactlyWhen (op : Word → Word) (invalid : Prop) : Prop :=
  (invalid → ∀ nan, op nan = nan) ∧ (¬invalid → ∃ r, isNaN r = false ∧ ∀ nan, op nan = r)

theorem TakesNaNExactlyWhen.isNaN_iff {op : Word → Word} {invalid : Prop}
    (h : TakesNaNExactlyWhen op invalid) {nan : Word} (hn : isNaN nan = true) :
    isNaN (op nan) = true ↔ invalid := by
  by_cases hi : invalid
  · simp [h.1 hi, hn, hi]
  · obtain ⟨r, hr, hop⟩ := h.2 hi
    simp [hop, hr, hi]

theorem TakesNaNExactlyWhen.eq_of_not_isNaN {op : Word → Word} {invalid : Prop}
    (h : TakesNaNExactlyWhen op invalid) {nan nan' : Word} (hn : isNaN nan = true)
    (hop : isNaN (op nan) = false) : op nan' = op nan := by
  have hi : ¬invalid := fun hi => by simp [h.1 hi, hn] at hop
  obtain ⟨r, -, hr⟩ := h.2 hi
  rw [hr, hr]

theorem add_takesNaN (a b : Word) : TakesNaNExactlyWhen (fun nan => add nan a b) (InvalidSum a b) := by
  constructor
  · rintro (h | h | ⟨ha, hb, hs⟩) nan
    · simp [add, h]
    · simp [add, h]
    · simp [add, ha, hb, hs]
  · intro h
    simp only [InvalidSum, not_or, not_and, Bool.not_eq_true, not_not] at h
    obtain ⟨ha, hb, hs⟩ := h
    cases hai : isInf a with
    | true =>
      refine ⟨a, ha, fun nan => add_of_isInf_left nan hai hb ?_⟩
      cases hbi : isInf b with
      | false => exact .inl rfl
      | true => exact .inr (hs hai hbi)
    | false =>
      cases hbi : isInf b with
      | true => exact ⟨b, hb, fun nan => add_of_isInf_right nan ha hbi (.inl hai)⟩
      | false =>
        refine ⟨_, ?_, fun nan => add_of_isFinite nan (isFinite_of_not ha hai) (isFinite_of_not hb hbi)⟩
        split
        · exact isNaN_pack _ (Nat.zero_le _)
        · exact isNaN_pack _ (roundRatio_le ..)

theorem mul_takesNaN (a b : Word) : TakesNaNExactlyWhen (fun nan => mul nan a b) (InvalidProduct a b) := by
  constructor
  · rintro (h | h | ⟨h, h'⟩ | ⟨h, h'⟩) nan <;> simp [mul, h]
    · simp [h']
    · simp [h']
  · intro h
    simp only [InvalidProduct, not_or, not_and, Bool.not_eq_true] at h
    obtain ⟨ha, hb, hab, hba⟩ := h
    cases hai : isInf a with
    | true => exact ⟨_, isNaN_pack _ le_rfl, fun nan => mul_of_isInf nan ha hb (.inl ⟨hai, hab hai⟩)⟩
    | false =>
      cases hbi : isInf b with
      | true =>
        have haz : isZero a = false := by
          cases hz : isZero a with
          | false => rfl
          | true => rw [hba hz] at hbi; cases hbi
        exact ⟨_, isNaN_pack _ le_rfl, fun nan => mul_of_isInf nan ha hb (.inr ⟨hbi, haz⟩)⟩
      | false =>
        exact ⟨_, isNaN_pack _ (roundRatio_le ..),
          fun nan => mul_of_isFinite nan (isFinite_of_not ha hai) (isFinite_of_not hb hbi)⟩

theorem div_takesNaN (a b : Word) : TakesNaNExactlyWhen (fun nan => div nan a b) (InvalidQuotient a b) := by
  constructor
  · rintro (h | h | ⟨h, h'⟩ | ⟨h, h'⟩) nan
    · simp [div, h]
    · simp [div, h]
    · simp [div, h, h']
    · have hi {w : Word} (hw : isZero w = true) : isInf w = false :=
        isInf_of_isFinite (isFinite_of_isZero hw)
      simp [div, hi, h, h']
  · intro h
    simp only [InvalidQuotient, not_or, not_and, Bool.not_eq_true] at h
    obtain ⟨ha, hb, hii, hzz⟩ := h
    cases hai : isInf a with
    | true => exact ⟨_, isNaN_pack _ le_rfl, fun nan => div_of_isInf_left nan hai hb (hii hai)⟩
    | false =>
      cases hbi : isInf b with
      | true => exact ⟨_, isNaN_pack _ (Nat.zero_le _), fun nan => div_of_isInf_right nan ha hai hbi⟩
      | false =>
        have hfa := isFinite_of_not ha hai
        have hfb := isFinite_of_not hb hbi
        cases hbz : isZero b with
        | false => exact ⟨_, isNaN_pack _ (roundRatio_le ..), fun nan => div_of_isFinite nan hfa hfb hbz⟩
        | true =>
          have haz : isZero a = false := by
            cases hz : isZero a with
            | false => rfl
            | true => rw [hzz hz] at hbz; cases hbz
          exact ⟨_, isNaN_pack _ le_rfl, fun nan => div_of_isZero nan hfa hfb hbz haz⟩

/-! ### The NaN drawn -/

theorem toNat_sign_exponent_fraction (s : Bool) (frac : BitVec 23) :
    (BitVec.ofBool s ++ 0xFF#8 ++ frac).toNat = s.toNat * 2 ^ 31 + (infMag + frac.toNat) := by
  rw [BitVec.toNat_append, BitVec.toNat_append, ← Nat.shiftLeft_add_eq_or_of_lt frac.isLt,
    ← Nat.shiftLeft_add_eq_or_of_lt (BitVec.isLt _), Nat.shiftLeft_eq, Nat.shiftLeft_eq, BitVec.toNat_ofBool,
    BitVec.toNat_ofNat, infMag]
  omega

theorem nanOf_eq_pack (free : BitVec 24) : nanOf free = pack free.msb
    (infMag + if free.toNat % 2 ^ 23 = 0 then 1 else free.toNat % 2 ^ 23) := by
  have hfrac : (free.extractLsb' 0 23).toNat = free.toNat % 2 ^ 23 := by
    rw [BitVec.extractLsb'_toNat, Nat.shiftRight_zero]
  have hzero : free.extractLsb' 0 23 = 0#23 ↔ free.toNat % 2 ^ 23 = 0 := by
    rw [← hfrac, BitVec.toNat_eq, BitVec.toNat_zero]
  apply BitVec.eq_of_toNat_eq
  simp only [nanOf, hzero, toNat_sign_exponent_fraction, toNat_pack]
  split
  · rfl
  · rw [hfrac, infMag]
    omega

theorem isNaN_nanOf (free : BitVec 24) : isNaN (nanOf free) = true := by
  have hlt := Nat.mod_lt free.toNat (show 2 ^ 23 > 0 by decide)
  rw [nanOf_eq_pack, isNaN_iff, magField_pack_mod, infMag]
  split <;> omega

/-- Every NaN is drawn from its own sign and fraction. -/
theorem exists_nanOf_eq {w : Word} (h : isNaN w = true) : ∃ free, nanOf free = w := by
  have hlt := magField_lt w
  rw [isNaN_iff, infMag] at h
  have hfree : (BitVec.ofNat 24 ((sign w).toNat * 2 ^ 23 + magField w % 2 ^ 23)).toNat =
      (sign w).toNat * 2 ^ 23 + magField w % 2 ^ 23 := by
    rw [BitVec.toNat_ofNat, Nat.mod_eq_of_lt]
    have := Bool.toNat_lt (sign w)
    omega
  have hmsb : (BitVec.ofNat 24 ((sign w).toNat * 2 ^ 23 + magField w % 2 ^ 23)).msb = sign w := by
    rw [BitVec.msb_eq_decide, hfree]
    cases sign w <;> simp
    omega
  have hmag : infMag + (magField w % 2 ^ 23) = magField w := by
    rw [infMag]
    omega
  refine ⟨BitVec.ofNat 24 ((sign w).toNat * 2 ^ 23 + magField w % 2 ^ 23), ?_⟩
  rw [nanOf_eq_pack, hmsb, hfree, Nat.mul_add_mod', Nat.mod_mod, if_neg (by omega), hmag]
  exact (eq_pack w).symm

end Sys2Proof.Machine.F32
end

section
/-! The statements about the arithmetic of B32 (R6): each is assembled from the laws of the operations on
patterns. -/

namespace Sys2Proof.Proofs.Binary32Arithmetic

open Sys2Proof.Machine Sys2Proof.Machine.F32

/-- Sums and differences of reals are read off the exact integers of their patterns. -/
theorem realOf_add_eq_zero_iff (a b : Word) : realOf a + realOf b = 0 ↔ value a + value b = 0 := by
  rw [realOf, realOf, ← add_div, div_eq_zero_iff, or_iff_left (by positivity)]
  exact_mod_cast Iff.rfl

theorem realOf_lt_realOf_iff (a b : Word) : realOf a < realOf b ↔ value a < value b := by
  rw [realOf, realOf, div_lt_div_iff_of_pos_right (by positivity), Int.cast_lt]

/-- Settles O54: a difference is the sum with the second term negated. -/
theorem additionIsCorrectlyRounded : Obligations.AdditionIsCorrectlyRounded := by
  intro d a b ha hb
  have hb' : isFinite (neg b) = true := by rwa [isFinite_neg]
  refine ⟨roundsTo_add _ ha hb, fun h => ?_, ?_, fun h => ?_⟩
  · exact (add_of_sum_zero _ ha hb ((realOf_add_eq_zero_iff a b).1 h)).trans (pack_and_zero ..)
  · rw [sub_eq_add_neg, ← realOf_neg]
    exact roundsTo_add _ ha hb'
  · rw [sub_eq_add_neg, ← realOf_neg, realOf_add_eq_zero_iff] at h
    refine (add_of_sum_zero _ ha hb' h).trans ((pack_and_zero ..).trans ?_)
    simp only [sign_neg, Bool.not_eq_true']

/-- Settles O55: the product of the units is rounded once, and its sign is packed apart from it. -/
theorem multiplicationIsCorrectlyRounded : Obligations.MultiplicationIsCorrectlyRounded := by
  intro d a b ha hb
  refine ⟨roundsTo_mul _ ha hb, ?_⟩
  exact (congrArg sign (mul_of_isFinite _ ha hb)).trans (sign_pack ..)

/-- Settles O56: the quotient of the units is rounded once, and its sign is packed apart from it. -/
theorem divisionIsCorrectlyRounded : Obligations.DivisionIsCorrectlyRounded := by
  intro d a b ha hb
  refine ⟨fun h0 => ⟨roundsTo_div _ ha hb h0, ?_⟩, fun h0 ha0 => ?_⟩
  · exact (congrArg sign (div_of_isFinite _ ha hb h0)).trans (sign_pack ..)
  · exact (div_of_isZero _ ha hb h0 ha0).trans (pack_xor_infMag ..)

/-- Settles O57, by the equation of each operation on an infinite operand. -/
theorem infiniteOperandsGiveTheStandardResults : Obligations.InfiniteOperandsGiveTheStandardResults := by
  intro d a b ha hb
  have hb' : isNaN (neg b) = false := by rwa [isNaN_neg]
  refine ⟨fun hai h => add_of_isInf_left _ hai hb h, fun hbi h => add_of_isInf_right _ ha hbi h,
    fun hai h => add_of_isInf_left _ hai hb' ?_, fun hbi h => add_of_isInf_right _ ha ?_ ?_,
    fun h => (mul_of_isInf _ ha hb h).trans (pack_xor_infMag ..),
    fun hai hbi => (div_of_isInf_left _ hai hb hbi).trans (pack_xor_infMag ..),
    fun hai hbi => (div_of_isInf_right _ ha hai hbi).trans (pack_xor_zero ..)⟩
  · rwa [isInf_neg, sign_neg, Bool.eq_not]
  · rwa [isInf_neg]
  · rwa [sign_neg, Bool.eq_not]

/-- Settles O58: `key` orders the patterns as the integers they stand for do. -/
theorem comparisonsAreTheRealOrder : Obligations.ComparisonsAreTheRealOrder := by
  refine ⟨fun a b ha hb => ?_, fun a ha => ?_, fun _ _ => rfl, fun a b h => ?_⟩
  · have hlt {v w : Word} (hv : isFinite v = true) (hw : isFinite w = true) :
        lt v w = true ↔ realOf v < realOf w := by
      rw [lt_iff_key_lt_key (isNaN_of_isFinite hv) (isNaN_of_isFinite hw), key_lt_key_iff_value_lt_value,
        realOf_lt_realOf_iff]
    exact ⟨hlt ha hb, hlt hb ha⟩
  · have hp : isNaN 0x7F800000#32 = false := by decide
    have hn : isNaN 0xFF800000#32 = false := by decide
    have hkp : key 0x7F800000#32 = infMag := by decide
    have hkn : key 0xFF800000#32 = -(infMag : Int) := by decide
    have hbound := natAbs_key_le ha
    refine ⟨?_, Bool.eq_false_iff.2 fun h => ?_, ?_, Bool.eq_false_iff.2 fun h => ?_⟩
    · exact ((lt_iff_key_lt_key ha hp).trans (by rw [hkp])).trans (key_lt_infMag_iff ha)
    · have := (lt_iff_key_lt_key hp ha).1 h
      omega
    · exact ((lt_iff_key_lt_key hn ha).trans (by rw [hkn])).trans (neg_infMag_lt_key_iff ha)
    · have := (lt_iff_key_lt_key ha hn).1 h
      omega
  · rcases h with h | h <;> simp [b32, gt, lt, h]

theorem sub_takesNaN (a b : Word) : TakesNaNExactlyWhen (fun nan => sub nan a b) (InvalidSum a (neg b)) :=
  add_takesNaN a (neg b)

theorem isNaN_nanDraw (P : Params) (d : Nat) : isNaN (nanDraw P d) = true := isNaN_nanOf _

/-- Settles O59: every operation takes the NaN it is offered exactly on invalid operands. -/
theorem naNsAreTheOnlyFreeResults : Obligations.NaNsAreTheOnlyFreeResults := by
  refine ⟨fun d a b => ⟨(add_takesNaN a b).isNaN_iff (isNaN_nanDraw _ d), ?_,
      (mul_takesNaN a b).isNaN_iff (isNaN_nanDraw _ d), (div_takesNaN a b).isNaN_iff (isNaN_nanDraw _ d)⟩,
    fun w => ⟨exists_nanOf_eq, ?_⟩,
    fun d d' a b => ⟨(add_takesNaN a b).eq_of_not_isNaN (isNaN_nanDraw _ d),
      (sub_takesNaN a b).eq_of_not_isNaN (isNaN_nanDraw _ d),
      (mul_takesNaN a b).eq_of_not_isNaN (isNaN_nanDraw _ d),
      (div_takesNaN a b).eq_of_not_isNaN (isNaN_nanDraw _ d)⟩⟩
  · refine ((sub_takesNaN a b).isNaN_iff (isNaN_nanDraw _ d)).trans ?_
    rw [InvalidSum, isNaN_neg, isInf_neg, sign_neg, ne_eq, Bool.eq_not, not_not]
  · rintro ⟨free, rfl⟩
    exact isNaN_nanOf free

end Sys2Proof.Proofs.Binary32Arithmetic
end

section
/-! What a command and a step can do, said once: a command answers with its effect, raises one error, or
stops on an unwritten word; a step performs the host's oldest action. -/

namespace Sys2Proof.Machine

/-! ### The effect of a command -/

/-- The state an admitted command leaves before it answers, with the checks it passed (R171, R179). -/
inductive Effect : Instr → State → State → Prop
  | nop {s} : Effect .nop s s
  | reset {s} : Effect .reset s ((s.setRegs Regs.reset).setStatus 0)
  | setcfg {s f} (field : f.isField = true) (unconfigured : s.running = false) :
      Effect (.setcfg f) s ((s.setRegs (setField hw s.draws s.regs f (opA s))).addDraws 2)
  | config {s} (unconfigured : s.running = false) (valid : configValid hw s.regs (opA s) = true) :
      Effect .config s (((s.setRegs (configure hw s.draws s.regs (opA s) (opB s) (opC s))).setStatus
        (withRun s.status)).addDraws 5)
  | get {s r} : Effect (.get r) s s
  | setfreq {s} (running : s.running = true) : Effect .setfreq s (s.setRegs (s.regs.setFreq (opA s)))
  | setphase {s} (running : s.running = true) : Effect .setphase s (s.setRegs (s.regs.setPhase (opA s)))
  | step {s} (running : s.running = true) :
      Effect .step s ((s.setRegs (stepPhase hw s.draws s.regs)).addDraws 1)
  | sincos {s} (running : s.running = true) : Effect .sincos s s
  | adjphase {s} (running : s.running = true) :
      Effect .adjphase s ((s.setRegs (adjustPhase hw s.draws s.regs (opA s))).addDraws 1)
  | adjfreq {s} (running : s.running = true) :
      Effect .adjfreq s ((s.setRegs (adjustFreq hw s.draws s.regs (opA s))).addDraws 1)
  | filter {s} (running : s.running = true) :
      Effect .filter s ((s.setRegs (s.regs.setAcc (filterOut hw s.draws s.regs (opAB s)))).addDraws 7)
  | detect {s} (running : s.running = true) : Effect .detect s s
  | sample {s} (running : s.running = true) :
      Effect .sample s ((s.setRegs (pipe hw s.draws s.regs (opAB s)).1).addDraws pipeDraws)
  | process {s u n} (running : s.running = true) (fits : batchLength n ≤ Config.params.maxN)
      (loop : processLoop hw (batchLength n) 0 s = .next u) : Effect (.process n) s u

/-- How a command ends (R62, R71, R172); `RESET` raises no error. -/
inductive Ends (i : Instr) (s : State) : Result → Prop
  | ok {ra rb u} (effect : Effect i s u) : Ends i s (.next (okAnswer ra rb u))
  | error {e} (not_reset : i ≠ .reset) : Ends i s (.next (raised e s))
  | fault {j} : Ends i s (.fault (.unwrittenWord j))

theorem Ends.whenRunning {i : Instr} {s : State} {k : Result} (hi : i ≠ .reset)
    (h : s.running = true → Ends i s k) : Ends i s (whenRunning s k) := by
  cases hr : s.running with
  | true => rw [whenRunning_of hr]; exact h hr
  | false => rw [whenRunning_not hr]; exact .error hi

theorem Ends.whenUnconfigured {i : Instr} {s : State} {k : Result} (hi : i ≠ .reset)
    (h : s.running = false → Ends i s k) : Ends i s (whenUnconfigured s k) := by
  cases hr : s.running with
  | true => rw [whenUnconfigured_not hr]; exact .error hi
  | false => rw [whenUnconfigured_of hr]; exact h hr

theorem execSetcfg_ends (f : Reg) (s : State) : Ends (.setcfg f) s (execSetcfg f s) := by
  rw [execSetcfg, setcfgCmd]
  split
  · exact .whenUnconfigured nofun fun hr => .ok (.setcfg ‹_› hr)
  · exact .error nofun

theorem execConfig_ends (s : State) : Ends .config s (execConfig s) := by
  refine .whenUnconfigured nofun fun hr => ?_
  split
  · exact .ok (.config hr ‹_›)
  · exact .error nofun

theorem execProcess_ends (n : BitVec 16) (s : State) : Ends (.process n) s (execProcess n s) := by
  refine .whenRunning nofun fun hr => ?_
  split
  · exact .error nofun
  · obtain ⟨u, hu⟩ | ⟨j, -, -, -, hj⟩ := processLoop_stops (N := hw) (batchLength n) 0 s
    · rw [hu]
      exact .ok (.process hr (by omega) hu)
    · rw [hj]
      exact .fault

theorem exec_ends (i : Instr) (s : State) : Ends i s (exec i s) := by
  cases i with
  | nop => exact .ok .nop
  | reset => exact .ok .reset
  | setcfg f => exact execSetcfg_ends f s
  | config => exact execConfig_ends s
  | get r => exact .ok .get
  | setfreq => exact .whenRunning nofun fun hr => .ok (.setfreq hr)
  | setphase => exact .whenRunning nofun fun hr => .ok (.setphase hr)
  | step => exact .whenRunning nofun fun hr => .ok (.step hr)
  | sincos => exact .whenRunning nofun fun hr => .ok (.sincos hr)
  | adjphase => exact .whenRunning nofun fun hr => .ok (.adjphase hr)
  | adjfreq => exact .whenRunning nofun fun hr => .ok (.adjfreq hr)
  | filter => exact .whenRunning nofun fun hr => .ok (.filter hr)
  | detect => exact .whenRunning nofun fun hr => .ok (.detect hr)
  | sample => exact .whenRunning nofun fun hr => .ok (.sample hr)
  | process n => exact execProcess_ends n s

/-- A command that goes on answered with its effect or raised one error. -/
theorem exec_next {i : Instr} {s t : State} (h : exec i s = .next t) :
    (∃ ra rb u, Effect i s u ∧ t = okAnswer ra rb u) ∨ (i ≠ .reset ∧ ∃ e, t = raised e s) := by
  have hends := exec_ends i s
  rw [h] at hends
  cases hends with
  | ok effect => exact .inl ⟨_, _, _, effect, rfl⟩
  | error hi => exact .inr ⟨hi, _, rfl⟩

theorem exec_next_or_fault (i : Instr) (s : State) :
    (∃ t, exec i s = .next t) ∨ (∃ f, exec i s = .fault f) := by
  have hends := exec_ends i s
  generalize exec i s = k at hends ⊢
  cases hends with
  | ok | error => exact .inl ⟨_, rfl⟩
  | fault => exact .inr ⟨_, rfl⟩

/-! ### The step -/

/-- What one step does with the host's oldest action (R58, R70, R184, R200). -/
inductive Moves (s : State) : State → Prop
  | idle (host : s.host = []) : Moves s s
  | command {c rest i t} (host : s.host = .command c :: rest) (decoded : decode c.word = .ok i)
      (done : exec i (latch c (s.setHost rest)) = .next t) : Moves s t
  | illegal {c rest e} (host : s.host = .command c :: rest) (decoded : decode c.word = .error e) :
      Moves s (raised .illegalCommand (latch c (s.setHost rest)))
  | write {i v rest} (host : s.host = .writeIbuf i v :: rest) (in_buffer : i < 2 * Config.params.maxN) :
      Moves s ((s.setHost rest).setIbuf (s.ibuf.writeWord i v))
  | hardReset {rest} (host : s.host = .hardReset :: rest) : Moves s (hardReset (s.setHost rest))

theorem step_moves {s t : State} (h : step s = .next t) : Moves s t := by
  unfold Machine.step at h
  split at h
  · cases h
    exact .idle ‹_›
  · unfold perform at h
    split at h
    · exact .command ‹_› ‹_› h
    · cases h
      exact .illegal ‹_› ‹_›
  · unfold hostWrite at h
    split at h
    · cases h
      exact .write ‹_› ‹_›
    · cases h
  · cases h
    exact .hardReset ‹_›

end Sys2Proof.Machine
end

section
/-! Frames: what a command leaves of `STATUS` (R30) and of the registers (R21, R25). -/

namespace Sys2Proof.Machine

/-! ### `STATUS` -/

@[simp] theorem setStatus_zero_running (s : State) : (s.setStatus 0#32).running = false := BitVec.getLsbD_zero

@[simp] theorem hardReset_running (s : State) : (hardReset s).running = false := BitVec.getLsbD_zero

@[simp] theorem latch_running (c : Command) (s : State) : (latch c s).running = s.running := rfl

theorem Effect.status_eq {i : Instr} {s u : State} (h : Effect i s u) (hi : i ≠ .reset) :
    u.status = if i = .config then withRun s.status else s.status := by
  cases h with
  | reset => contradiction
  | process _ _ hloop =>
    exact processLoop_keeps (Q := fun v => v.status = s.status) (fun _ _ _ _ _ hv => hv) le_rfl le_rfl rfl
      hloop
  | _ => rfl

theorem Effect.config_valid {s u : State} (h : Effect .config s u) :
    hw.fgt (opA s) Config.zero = true ∧ hw.fgt s.regs.timeConstant Config.zero = true := by
  cases h with
  | config _ hvalid => exact (Bool.and_eq_true ..).mp hvalid

theorem exec_reset_status {s t : State} (h : exec .reset s = .next t) : t.status = 0#32 := by
  cases h
  rfl

theorem exec_keeps_status_bits {i : Instr} {s t : State} (h : exec i s = .next t) (hi : i ≠ .reset)
    {b : Nat} (hb : s.status.getLsbD b = true) : t.status.getLsbD b = true := by
  obtain ⟨ra, rb, u, hu, rfl⟩ | ⟨-, e, rfl⟩ := exec_next h
  · rw [okAnswer_status, hu.status_eq hi]
    split
    · rw [withRun, BitVec.getLsbD_or, hb, Bool.true_or]
    · exact hb
  · rw [raised_status, withFlag, BitVec.getLsbD_or, hb, Bool.true_or]

theorem Err.code_ne_zero (e : Err) : e.code ≠ 0x00#8 := by cases e <;> decide

theorem exec_success_status {i : Instr} {s t : State} (h : exec i s = .next t) (hi : i ≠ .reset)
    {r : Response} (hr : t.response = some r) (hok : r.status = 0x00#8) :
    t.status = if i = .config then withRun s.status else s.status := by
  obtain ⟨ra, rb, u, hu, rfl⟩ | ⟨-, e, rfl⟩ := exec_next h
  · exact hu.status_eq hi
  · cases hr
    exact absurd hok e.code_ne_zero

/-- Only `CONFIG`, and only when its check passes, constructs the loop (R31). -/
theorem exec_starts_running {i : Instr} {s t : State} (h : exec i s = .next t) (hs : s.running = false)
    (ht : t.running = true) : i = .config ∧ hw.fgt (opA s) Config.zero = true ∧
      hw.fgt s.regs.timeConstant Config.zero = true := by
  obtain ⟨ra, rb, u, hu, rfl⟩ | ⟨-, e, rfl⟩ := exec_next h
  · rw [okAnswer_running] at ht
    by_cases hconfig : i = .config
    · subst hconfig
      exact ⟨rfl, hu.config_valid⟩
    · by_cases hreset : i = .reset
      · subst hreset
        cases hu
        simp at ht
      · rw [State.running, hu.status_eq hreset, if_neg hconfig, ← State.running, hs] at ht
        cases ht
  · rw [raised_running, hs] at ht
    cases ht

/-! ### Registers -/

/-- A register as it stands in the register file, where `STATUS` is not. -/
def Regs.read (g : Regs Word) : Reg → Word
  | .phase => g.phase
  | .freq => g.freq
  | .accRe => g.accRe
  | .accIm => g.accIm
  | .alphaFilter => g.alphaFilter
  | .alphaLoop => g.alphaLoop
  | .betaLoop => g.betaLoop
  | .limit => Config.halfPi
  | .timeConstant => g.timeConstant
  | .status => 0#32

theorem readReg_eq_read (s : State) {r : Reg} (h : r ≠ .status) : readReg s r = s.regs.read r := by
  cases r with
  | status => contradiction
  | _ => rfl

namespace Regs

variable (g : Regs Word) {r : Reg}

theorem read_setPhase {v : Word} (h : r ≠ .phase) : (g.setPhase v).read r = g.read r := by
  cases r with
  | phase => contradiction
  | _ => rfl

theorem read_setFreq {v : Word} (h : r ≠ .freq) : (g.setFreq v).read r = g.read r := by
  cases r with
  | freq => contradiction
  | _ => rfl

theorem read_setAcc {v : Cpx Word} (hre : r ≠ .accRe) (him : r ≠ .accIm) :
    (g.setAcc v).read r = g.read r := by
  cases r with
  | accRe | accIm => contradiction
  | _ => rfl

theorem read_setAlphaFilter {v : Word} (h : r ≠ .alphaFilter) : (g.setAlphaFilter v).read r = g.read r := by
  cases r with
  | alphaFilter => contradiction
  | _ => rfl

theorem read_setAlphaLoop {v : Word} (h : r ≠ .alphaLoop) : (g.setAlphaLoop v).read r = g.read r := by
  cases r with
  | alphaLoop => contradiction
  | _ => rfl

theorem read_setBetaLoop {v : Word} (h : r ≠ .betaLoop) : (g.setBetaLoop v).read r = g.read r := by
  cases r with
  | betaLoop => contradiction
  | _ => rfl

theorem read_setTimeConstant {v : Word} (h : r ≠ .timeConstant) :
    (g.setTimeConstant v).read r = g.read r := by
  cases r with
  | timeConstant => contradiction
  | _ => rfl

end Regs

theorem read_pipe (N : Numerics Word) (d : Nat) (g : Regs Word) (x : Cpx Word) {r : Reg}
    (hphase : r ≠ .phase) (hfreq : r ≠ .freq) (hre : r ≠ .accRe) (him : r ≠ .accIm) :
    (pipe N d g x).1.read r = g.read r := by
  cases r with
  | phase | freq | accRe | accIm => contradiction
  | _ => rfl

theorem ne_of_writtenBy {q r : Reg} {i : Instr} (hr : writtenBy r i = false) (hq : writtenBy q i = true) :
    r ≠ q := by
  rintro rfl
  rw [hr] at hq
  cases hq

theorem read_setField (N : Numerics Word) (d : Nat) (g : Regs Word) (v : Word) {f r : Reg}
    (h : writtenBy r (.setcfg f) = false) : (setField N d g f v).read r = g.read r := by
  cases f with
  | alphaLoop =>
    exact (Regs.read_setBetaLoop _ (ne_of_writtenBy h rfl)).trans
      (Regs.read_setAlphaLoop _ (ne_of_writtenBy h rfl))
  | betaLoop => exact Regs.read_setBetaLoop _ (ne_of_writtenBy h rfl)
  | timeConstant => exact Regs.read_setTimeConstant _ (ne_of_writtenBy h rfl)
  | _ => rfl

/-- A command that does not write a register leaves it as it stands (R21, R25). -/
theorem Effect.read_eq {i : Instr} {s u : State} {r : Reg} (h : Effect i s u)
    (hr : writtenBy r i = false) : u.regs.read r = s.regs.read r := by
  cases h with
  | nop | get | sincos | detect => rfl
  | reset =>
    cases r with
    | limit => rfl
    | _ => cases hr
  | setcfg => exact read_setField _ _ _ _ hr
  | config =>
    exact (Regs.read_setAcc _ (ne_of_writtenBy hr rfl) (ne_of_writtenBy hr rfl)).trans <|
      (Regs.read_setPhase _ (ne_of_writtenBy hr rfl)).trans <|
      (Regs.read_setFreq _ (ne_of_writtenBy hr rfl)).trans <|
      Regs.read_setAlphaFilter _ (ne_of_writtenBy hr rfl)
  | setfreq | adjfreq => exact Regs.read_setFreq _ (ne_of_writtenBy hr rfl)
  | setphase | step | adjphase => exact Regs.read_setPhase _ (ne_of_writtenBy hr rfl)
  | filter => exact Regs.read_setAcc _ (ne_of_writtenBy hr rfl) (ne_of_writtenBy hr rfl)
  | sample =>
    exact read_pipe _ _ _ _ (ne_of_writtenBy hr rfl) (ne_of_writtenBy hr rfl) (ne_of_writtenBy hr rfl)
      (ne_of_writtenBy hr rfl)
  | process _ _ hloop =>
    refine processLoop_keeps (Q := fun v => v.regs.read r = s.regs.read r) (fun v k x _ _ hv => ?_) le_rfl
      le_rfl rfl hloop
    exact (read_pipe _ _ _ _ (ne_of_writtenBy hr rfl) (ne_of_writtenBy hr rfl) (ne_of_writtenBy hr rfl)
      (ne_of_writtenBy hr rfl)).trans hv

theorem exec_read_eq {i : Instr} {s t : State} {r : Reg} (h : exec i s = .next t)
    (hr : writtenBy r i = false) : t.regs.read r = s.regs.read r := by
  obtain ⟨ra, rb, u, hu, rfl⟩ | ⟨-, e, rfl⟩ := exec_next h
  · exact hu.read_eq hr
  · rfl

end Sys2Proof.Machine
end

section
/-! Every step keeps the invariant of the machine (`State.Inv`). -/

namespace Sys2Proof.Machine

namespace State.Inv

variable {s : State}

/-- The host's actions to come, the operand ports and the draw counter take no part in the invariant. -/
theorem setHost (h : s.Inv) (l : List HostAction) : (s.setHost l).Inv := { h with }
theorem setOperands (h : s.Inv) (o : Operands) : (s.setOperands o).Inv := { h with }
theorem addDraws (h : s.Inv) (k : Nat) : (s.addDraws k).Inv := { h with }

theorem okAnswer (h : s.Inv) (ra rb : Word) : (okAnswer ra rb s).Inv :=
  { h with
    response_legal := by
      rintro r ⟨⟩
      exact ⟨Nat.zero_le 4, fun hne => absurd rfl hne⟩ }

theorem raised (h : s.Inv) (e : Err) : (raised e s).Inv :=
  { h with
    reserved_zero := by
      rw [raised_status, withFlag, BitVec.and_or_distrib_right, h.reserved_zero]
      cases e <;> decide
    unconfigured_reset := fun hr => h.unconfigured_reset (by rwa [raised_running] at hr)
    running_timeConstant := fun hr => h.running_timeConstant (by rwa [raised_running] at hr)
    response_legal := by
      rintro r ⟨⟩
      exact ⟨by cases e <;> decide, fun _ => ⟨rfl, rfl⟩⟩ }

/-- In `RUNNING` the registers may hold anything, as long as the time constant stays. -/
theorem setRegs_of_running (h : s.Inv) (hr : s.running = true) {g : Regs Word}
    (htc : g.timeConstant = s.regs.timeConstant) : (s.setRegs g).Inv :=
  { h with
    unconfigured_reset := fun hu => by
      rw [setRegs_running, hr] at hu
      cases hu
    running_timeConstant := fun _ => by
      rw [setRegs_regs, htc]
      exact h.running_timeConstant hr }

/-- `RESET` brings the registers of the construction back to their reset values (R151). -/
theorem reset (h : s.Inv) : ((s.setRegs Regs.reset).setStatus 0).Inv :=
  { h with
    reserved_zero := BitVec.zero_and
    unconfigured_reset := fun _ => ⟨rfl, rfl, rfl, rfl, rfl⟩
    running_timeConstant := fun hr => by simp at hr }

/-- `SETCFG` touches none of the registers that hold their reset values before construction (R203). -/
theorem setField_of_unconfigured (h : s.Inv) (hr : s.running = false) (N : Numerics Word) (d : Nat)
    (f : Reg) (v : Word) : (s.setRegs (setField N d s.regs f v)).Inv :=
  { h with
    unconfigured_reset := fun _ => by
      cases f <;> exact h.unconfigured_reset hr
    running_timeConstant := fun hu => by
      rw [setRegs_running, hr] at hu
      cases hu }

/-- `CONFIG` enters `RUNNING` with the time constant that its check found positive (R153). -/
theorem config (h : s.Inv) {rate offset ph : Word} (hvalid : configValid hw s.regs rate = true) (d : Nat) :
    ((s.setRegs (configure hw d s.regs rate offset ph)).setStatus (withRun s.status)).Inv :=
  { h with
    reserved_zero := by
      rw [setStatus_status, withRun, BitVec.and_or_distrib_right, h.reserved_zero]
      decide
    unconfigured_reset := fun hu => by
      rw [running, setStatus_status, withRun_running] at hu
      cases hu
    running_timeConstant := fun _ => ((Bool.and_eq_true ..).mp hvalid).2 }

theorem writeIbuf (h : s.Inv) {i : Nat} (hi : i < 2 * Config.params.maxN) (v : Word) :
    (s.setIbuf (s.ibuf.writeWord i v)).Inv :=
  { h with
    ibuf_wf := Memory.writeWord_wf h.ibuf_wf i v
    ibuf_whole := Memory.writeWord_whole h.ibuf_whole i v
    ibuf_inRange := Memory.writeWord_inRange h.ibuf_inRange (by omega) v }

theorem writeObuf (h : s.Inv) {k : Nat} (hk : k < Config.params.maxN) (x : Cpx Word) :
    (s.setObuf (s.obuf.writeSample k x)).Inv :=
  { h with
    obuf_wf := Memory.writeSample_wf h.obuf_wf k x
    obuf_whole := Memory.writeSample_whole h.obuf_whole k x
    obuf_inRange := Memory.writeSample_inRange h.obuf_inRange (by omega) x }

theorem processOne (h : s.Inv) (hr : s.running = true) {k : Nat} (hk : k < Config.params.maxN)
    (x : Cpx Word) : (processOne hw s k x).Inv :=
  ((h.setRegs_of_running hr (pipe_timeConstant ..)).writeObuf hk _).addDraws _

theorem processLoop (h : s.Inv) (hr : s.running = true) {count : Nat} (hcount : count ≤ Config.params.maxN)
    {u : State} (hloop : processLoop hw count 0 s = .next u) : u.Inv :=
  (processLoop_keeps (Q := fun v => v.Inv ∧ v.running = true)
    (fun _ _ x _ hk hv => ⟨hv.1.processOne hv.2 hk x, hv.2⟩) le_rfl (by omega) ⟨h, hr⟩ hloop).1

theorem effect {i : Instr} {u : State} (h : s.Inv) (heffect : Effect i s u) : u.Inv := by
  cases heffect with
  | nop | get | sincos | detect => exact h
  | reset => exact h.reset
  | setcfg _ hr => exact (h.setField_of_unconfigured hr ..).addDraws _
  | config _ hvalid => exact (h.config hvalid _).addDraws _
  | setfreq hr | setphase hr => exact h.setRegs_of_running hr rfl
  | step hr | adjphase hr | adjfreq hr | filter hr | sample hr =>
    exact (h.setRegs_of_running hr (by rfl)).addDraws _
  | process hr hfits hloop => exact h.processLoop hr hfits hloop

theorem exec {i : Instr} {t : State} (h : s.Inv) (hexec : exec i s = .next t) : t.Inv := by
  obtain ⟨ra, rb, u, hu, rfl⟩ | ⟨-, e, rfl⟩ := exec_next hexec
  · exact (h.effect hu).okAnswer ra rb
  · exact h.raised e

end State.Inv

/-- The state after hardware reset: empty buffers, no flag, no response (R34, R200). -/
theorem inv_reset : State.reset.Inv where
  ibuf_wf := .nil
  obuf_wf := .nil
  ibuf_whole := Memory.nil_whole
  obuf_whole := Memory.nil_whole
  ibuf_inRange := nofun
  obuf_inRange := nofun
  reserved_zero := BitVec.zero_and
  unconfigured_reset := fun _ => by decide
  running_timeConstant := nofun
  response_legal := nofun

theorem inv_hardReset (s : State) : (hardReset s).Inv := (inv_reset.setHost s.host).addDraws s.draws

theorem State.Inv.step {s t : State} (h : s.Inv) (hstep : step s = .next t) : t.Inv := by
  cases step_moves hstep with
  | idle => exact h
  | command _ _ hexec => exact ((h.setHost _).setOperands _).exec hexec
  | illegal => exact ((h.setHost _).setOperands _).raised _
  | write _ hi => exact (h.setHost _).writeIbuf hi _
  | hardReset => exact inv_hardReset _

end Sys2Proof.Machine
end

section
/-! No command but `GET STATUS` looks at a sticky flag (R30, R173): with the same `RUN`, another `STATUS`
gives the same result but for `STATUS`, in which the same bit is set. -/

namespace Sys2Proof.Machine

/-- A result with its next state changed. -/
def mapNext (f : State → State) : Result → Result
  | .next s => .next (f s)
  | .fault e => .fault e
  | .refused r => .refused r

/-- The bits a command can set: none, `RUN`, or the flag of an error (R30). -/
def settableBits : List Word :=
  [0#32, 0x00000001#32, 0x00000002#32, 0x00000004#32, 0x00000008#32, 0x00000010#32]

/-- From `s`, the command `F` sets one bit of `STATUS` and does not look at `STATUS` beyond `RUN`. -/
def FlagBlind (s : State) (F : State → Result) : Prop :=
  ∃ bit ∈ settableBits, ∀ w : Word, w.getLsbD 0 = s.status.getLsbD 0 →
    F (s.setStatus w) = mapNext (fun t => t.setStatus (w ||| bit)) (F s)

theorem processLoop_setStatus (N : Numerics Word) (w : Word) (count : Nat) :
    ∀ (k : Nat) (s : State), processLoop N count k (s.setStatus w) =
      mapNext (fun t => t.setStatus w) (processLoop N count k s) := by
  induction count with
  | zero => exact fun _ _ => rfl
  | succ count ih =>
    intro k s
    simp only [processLoop, State.setStatus_ibuf]
    split
    · rfl
    · split
      · rfl
      · exact ih (k + 1) (processOne N s k _)

namespace FlagBlind

variable {s : State} {F G : State → Result}

theorem of_setStatus (h : ∀ w, F (s.setStatus w) = mapNext (fun t => t.setStatus w) (F s)) :
    FlagBlind s F :=
  ⟨0#32, by decide, fun w _ => by rw [h, BitVec.or_zero]⟩

theorem raise (e : Err) : FlagBlind s (raise e) := ⟨e.flag, by cases e <;> decide, fun _ _ => rfl⟩

/-- A choice that does not look at `STATUS` beyond `RUN`. -/
theorem ite {c : State → Prop} [∀ v, Decidable (c v)]
    (hc : ∀ w : Word, w.getLsbD 0 = s.status.getLsbD 0 → (c (s.setStatus w) ↔ c s))
    (hF : FlagBlind s F) (hG : FlagBlind s G) : FlagBlind s (fun v => if c v then F v else G v) := by
  by_cases h : c s
  · obtain ⟨bit, hbit, hblind⟩ := hF
    refine ⟨bit, hbit, fun w hw => ?_⟩
    simpa only [if_pos h, if_pos ((hc w hw).2 h)] using hblind w hw
  · obtain ⟨bit, hbit, hblind⟩ := hG
    refine ⟨bit, hbit, fun w hw => ?_⟩
    simpa only [if_neg h, if_neg (mt (hc w hw).1 h)] using hblind w hw

theorem whenRunning (h : FlagBlind s F) : FlagBlind s (fun v => whenRunning v (F v)) :=
  ite (fun _ hw => Eq.congr_left hw) h (.raise .wrongState)

theorem whenUnconfigured (h : FlagBlind s F) : FlagBlind s (fun v => whenUnconfigured v (F v)) :=
  ite (fun _ hw => Eq.congr_left hw) (.raise .wrongState) h

end FlagBlind

theorem execGet_flagBlind {r : Reg} (hr : r ≠ .status) (s : State) : FlagBlind s (execGet r) := by
  refine .of_setStatus fun w => ?_
  rw [execGet, readReg_eq_read _ hr, execGet, readReg_eq_read _ hr]
  rfl

theorem execSetcfg_flagBlind (f : Reg) (s : State) : FlagBlind s (execSetcfg f) :=
  .ite (fun _ _ => Iff.rfl) (.whenUnconfigured (.of_setStatus fun _ => rfl)) (.raise _)

theorem execConfig_flagBlind (s : State) : FlagBlind s execConfig :=
  .whenUnconfigured (.ite (fun _ _ => Iff.rfl) ⟨runBit, by decide, fun _ _ => rfl⟩ (.raise _))

theorem execProcess_flagBlind (n : BitVec 16) (s : State) : FlagBlind s (execProcess n) := by
  refine .whenRunning (.ite (fun _ _ => Iff.rfl) (.raise _) (.of_setStatus fun w => ?_))
  rw [processLoop_setStatus]
  cases processLoop hw (batchLength n) 0 s with
  | _ => rfl

theorem exec_flagBlind {i : Instr} (hreset : i ≠ .reset) (hget : i ≠ .get .status) (s : State) :
    FlagBlind s (exec i) := by
  cases i with
  | reset => contradiction
  | nop => exact .of_setStatus fun _ => rfl
  | setcfg f => exact execSetcfg_flagBlind f s
  | config => exact execConfig_flagBlind s
  | get r => exact execGet_flagBlind (fun h => hget (h ▸ rfl)) s
  | process n => exact execProcess_flagBlind n s
  | _ => exact .whenRunning (.of_setStatus fun _ => rfl)

end Sys2Proof.Machine
end

section
/-! The statements about the state of the core (R20 to R34): each is read off the laws of commands and
steps. -/

namespace Sys2Proof.Proofs.CoreState

open Sys2Proof.Machine

/-- Settles O48, by the cases of a step. -/
theorem stepKeepsTheInvariant : Obligations.StepKeepsTheInvariant := fun _ _ h hstep => h.step hstep

/-- Settles O49: empty buffers, no flag and no response. -/
theorem resetHasTheInvariant : Obligations.ResetHasTheInvariant := inv_reset

/-- Settles O13: a command that is no `RESET` keeps every bit of `STATUS`, and only `CONFIG` sets `RUN`. -/
theorem lifecycleMovesOnlyByConfigAndReset : Obligations.LifecycleMovesOnlyByConfigAndReset := by
  intro s t hstep
  cases step_moves hstep with
  | idle | write | illegal => exact ⟨fun hs ht => by simp [hs] at ht, fun hs ht => by simp [hs] at ht⟩
  | hardReset hhost => exact ⟨fun _ ht => by simp at ht, fun _ _ => .inl ⟨_, hhost⟩⟩
  | @command c rest i _ hhost hdecode hexec =>
    refine ⟨fun hs ht => ?_, fun hs ht => .inr ⟨c, rest, hhost, ?_⟩⟩
    · obtain ⟨rfl, hrate, htime⟩ := exec_starts_running hexec hs ht
      exact ⟨c, rest, hhost, hdecode, hrate, htime⟩
    · by_contra hne
      have hi : i ≠ .reset := fun h => hne (h ▸ hdecode)
      exact Bool.false_ne_true (ht.symm.trans (exec_keeps_status_bits hexec hi hs))

/-- Settles O14: a command that is no `RESET` is blind to the flags, and compared with itself it
sets its bit. -/
theorem stickyFlagsInfluenceNoCommand : Obligations.StickyFlagsInfluenceNoCommand := by
  intro i s hget
  by_cases hreset : i = .reset
  · subst hreset
    exact ⟨0#32, by decide, fun _ _ => .inl ⟨_, _, rfl, rfl, rfl, rfl, .inl ⟨rfl, rfl, rfl⟩⟩⟩
  · obtain ⟨bit, hbit, hblind⟩ := exec_flagBlind hreset hget s
    refine ⟨bit, hbit, fun w hw => ?_⟩
    have hother : exec i { s with status := w } = _ := hblind w hw
    have hself : exec i s = _ := hblind s.status rfl
    obtain ⟨t, ht⟩ | ⟨f, hf⟩ := exec_next_or_fault i s
    · rw [ht] at hself hother
      have hstatus : t.status = s.status ||| bit := congrArg State.status (Host.Outcome.next.inj hself)
      refine .inl ⟨t, _, ht, hother, rfl, ?_, .inr ⟨hreset, hstatus, rfl⟩⟩
      rw [State.running, State.running, hstatus, State.setStatus_status, BitVec.getLsbD_or, hw,
        ← BitVec.getLsbD_or]
    · rw [hf] at hother
      exact .inr ⟨f, hf, hother⟩

/-- Settles O45: `STATUS` apart, a register read is a read of the register file. -/
theorem registersChangeOnlyByTheirWriters : Obligations.RegistersChangeOnlyByTheirWriters := by
  intro i s t r hexec hr
  have hne : r ≠ .status := ne_of_writtenBy hr rfl
  rw [readReg_eq_read t hne, readReg_eq_read s hne]
  exact exec_read_eq hexec hr

/-- Settles O46: an error sets a flag, and of the successes but `RESET` only `CONFIG` touches `STATUS`. -/
theorem statusChangesOnlyAsStated : Obligations.StatusChangesOnlyAsStated :=
  fun _ _ _ hexec => ⟨fun hi => exec_reset_status (hi ▸ hexec),
    fun hi _ hb => exec_keeps_status_bits hexec hi hb,
    fun hi _ hr hok => exec_success_status hexec hi hr hok⟩

end Sys2Proof.Proofs.CoreState
end

section
/-! When a command and a step complete (R50, R62, R218): the batch loop stops on the first unwritten word it
reads, every other command answers, and a host write completes inside `IBUF`. -/

namespace Sys2Proof.Machine

/-! ### The batch loop -/

/-- Every word of a buffer from index `lo` up to `hi` holds a value (R62). -/
def Memory.Written (m : Memory) (lo hi : Nat) : Prop :=
  ∀ i, lo ≤ i → i < hi → (m.readWord i).isSome = true

namespace Memory.Written

variable {m : Memory} {lo hi j : Nat}

theorem empty : m.Written lo lo := fun _ hle hlt => absurd hlt (Nat.not_lt.mpr hle)

/-- One more written word in front. -/
theorem cons {w : Word} (hw : m.readWord lo = some w) (h : m.Written (lo + 1) hi) : m.Written lo hi := by
  intro i hle hlt
  obtain rfl | hne := Nat.eq_or_lt_of_le hle
  · rw [hw]
    rfl
  · exact h i hne hlt

/-- An unwritten word lies past what is written. -/
theorem le_of_unwritten (h : m.Written lo hi) (hle : lo ≤ j) (hj : m.readWord j = none) : hi ≤ j := by
  by_contra hlt
  have hsome := h j hle (by omega)
  rw [hj] at hsome
  cases hsome

end Memory.Written

/-- How the batch loop ends on the words `lo` to `hi - 1`: they are all written, or it names the first of
them that is not. -/
inductive LoopEnds (m : Memory) (lo hi : Nat) : Result → Prop
  | done {t} (written : m.Written lo hi) : LoopEnds m lo hi (.next t)
  | stop {j} (ge : lo ≤ j) (lt : j < hi) (unwritten : m.readWord j = none) (before : m.Written lo j) :
      LoopEnds m lo hi (.fault (.unwrittenWord j))

/-- A loop that has read one written word ends as the rest of it does. -/
theorem LoopEnds.cons {m : Memory} {lo hi : Nat} {w : Word} {k : Result} (hw : m.readWord lo = some w)
    (h : LoopEnds m (lo + 1) hi k) : LoopEnds m lo hi k := by
  cases h with
  | done written => exact .done (written.cons hw)
  | stop ge lt unwritten before => exact .stop (by omega) lt unwritten (before.cons hw)

theorem processLoop_ends (N : Numerics Word) (count k : Nat) (s : State) :
    LoopEnds s.ibuf (2 * k) (2 * (k + count)) (processLoop N count k s) := by
  induction count generalizing k s with
  | zero => exact .done .empty
  | succ count ih =>
    rw [processLoop]
    split
    · exact .stop (by omega) (by omega) ‹_› .empty
    · rename_i a hre
      refine .cons hre ?_
      split
      · exact .stop (by omega) (by omega) ‹_› .empty
      · rename_i b him
        refine .cons him ?_
        have hrest := ih (k + 1) (processOne N s k ⟨a, b⟩)
        rwa [show k + 1 + count = k + (count + 1) by omega] at hrest

theorem processLoop_stops_at_first {N : Numerics Word} {count j : Nat} {s : State} (hlt : j < 2 * count)
    (hj : s.ibuf.readWord j = none) (hbefore : s.ibuf.Written 0 j) :
    processLoop N count 0 s = .fault (.unwrittenWord j) := by
  have hends := processLoop_ends N count 0 s
  rw [Nat.zero_add] at hends
  generalize processLoop N count 0 s = k at hends ⊢
  cases hends with
  | done written =>
    have := written.le_of_unwritten (Nat.zero_le j) hj
    omega
  | @stop i _ _ unwritten before =>
    have hij : i ≤ j := before.le_of_unwritten (Nat.zero_le j) hj
    have hji : j ≤ i := hbefore.le_of_unwritten (Nat.zero_le i) unwritten
    rw [Nat.le_antisymm hij hji]

/-! ### Completion -/

/-- A result is a next state. -/
def Completes (k : Result) : Prop := ∃ t, k = .next t

namespace Completes

@[simp] theorem next (s : State) : Completes (.next s) := ⟨s, rfl⟩
@[simp] theorem respond (ra rb : Word) (s : State) : Completes (respond ra rb s) := ⟨_, rfl⟩
@[simp] theorem raise (e : Err) (s : State) : Completes (raise e s) := ⟨_, rfl⟩
@[simp] theorem not_fault (f : Fault) : ¬ Completes (.fault f) := nofun

theorem thenRespond_iff {ra rb : Word} {k : Result} : Completes (thenRespond ra rb k) ↔ Completes k := by
  cases k with
  | next s => exact iff_of_true (.respond ..) (.next s)
  | fault f => exact iff_of_false (not_fault f) (not_fault f)
  | refused r => exact iff_of_false nofun nofun

theorem whenRunning_iff {s : State} {k : Result} :
    Completes (whenRunning s k) ↔ (s.running = true → Completes k) := by
  cases hr : s.running <;> simp [hr]

theorem whenUnconfigured {s : State} {k : Result} (h : Completes k) : Completes (whenUnconfigured s k) := by
  cases hr : s.running <;> simp [hr, h]

/-- The batch loop completes when every word it reads is written (R62). -/
theorem processLoop_iff {N : Numerics Word} {count : Nat} {s : State} :
    Completes (processLoop N count 0 s) ↔ s.samplesWritten count := by
  have hends := processLoop_ends N count 0 s
  rw [Nat.zero_add] at hends
  generalize processLoop N count 0 s = k at hends ⊢
  cases hends with
  | done written => exact iff_of_true (.next _) fun i hi => written i (Nat.zero_le i) hi
  | @stop j _ lt unwritten _ =>
    refine iff_of_false (not_fault _) fun hwritten => ?_
    have hsome := hwritten j lt
    rw [unwritten] at hsome
    cases hsome

end Completes

/-! ### The duty of the host before a command -/

/-- What the host owes a command (R62, R218): the samples of an admitted `PROCESS`. -/
def CommandDuty (i : Instr) (s : State) : Prop :=
  ∀ n, i = .process n → s.running = true → batchLength n ≤ Config.params.maxN →
    s.samplesWritten (batchLength n)

theorem commandDuty_process {n : BitVec 16} {s : State} : CommandDuty (.process n) s ↔
    (s.running = true → batchLength n ≤ Config.params.maxN → s.samplesWritten (batchLength n)) :=
  ⟨fun h => h n rfl, fun h _ hn => by cases hn; exact h⟩

/-- A batch that fits the buffers is its loop (R132). -/
theorem execProcess_of_fits {n : BitVec 16} (h : batchLength n ≤ Config.params.maxN) (s : State) :
    execProcess n s = whenRunning s (thenRespond 0 0 (processLoop hw (batchLength n) 0 s)) :=
  congrArg (whenRunning s) (if_neg (Nat.not_lt.mpr h))

theorem execProcess_of_too_long {n : BitVec 16} (h : Config.params.maxN < batchLength n) (s : State) :
    execProcess n s = whenRunning s (raise .badLength s) :=
  congrArg (whenRunning s) (if_pos h)

theorem execProcess_completes_iff {n : BitVec 16} {s : State} :
    Completes (execProcess n s) ↔ CommandDuty (.process n) s := by
  rw [commandDuty_process]
  obtain hfits | hlong := le_or_gt (batchLength n) Config.params.maxN
  · rw [execProcess_of_fits hfits, Completes.whenRunning_iff, Completes.thenRespond_iff,
      Completes.processLoop_iff, forall_prop_of_true hfits]
  · rw [execProcess_of_too_long hlong, Completes.whenRunning_iff]
    exact iff_of_true (fun _ => .raise ..) fun _ hfits => by omega

theorem execSetcfg_completes (f : Reg) (s : State) : Completes (execSetcfg f s) := by
  rw [execSetcfg, setcfgCmd]
  split
  · exact .whenUnconfigured (.respond ..)
  · exact .raise ..

theorem execConfig_completes (s : State) : Completes (execConfig s) := by
  refine .whenUnconfigured ?_
  split
  · exact .respond ..
  · exact .raise ..

/-- Every command but `PROCESS` answers, in either lifecycle state (R172, R179). -/
theorem exec_completes_of_ne_process {i : Instr} (hi : ∀ n, i ≠ .process n) (s : State) :
    Completes (exec i s) := by
  cases i with
  | nop | reset | get => exact .respond ..
  | setcfg f => exact execSetcfg_completes f s
  | config => exact execConfig_completes s
  | setfreq | setphase | step | sincos | adjphase | adjfreq | filter | detect | sample =>
    exact Completes.whenRunning_iff.mpr fun _ => .respond ..
  | process n => exact absurd rfl (hi n)

theorem exec_completes_iff (i : Instr) (s : State) : Completes (exec i s) ↔ CommandDuty i s := by
  by_cases hi : ∃ n, i = .process n
  · obtain ⟨n, rfl⟩ := hi
    exact execProcess_completes_iff
  · have hne := not_exists.mp hi
    exact iff_of_true (exec_completes_of_ne_process hne s) fun n hn => absurd hn (hne n)

/-! ### The step, by the host's oldest action -/

theorem step_of_idle {s : State} (h : s.host = []) : step s = .next s := by simp only [step, h]

theorem step_of_command {s : State} {c : Command} {rest : List HostAction} (h : s.host = .command c :: rest) :
    step s = perform c (s.setHost rest) := by simp only [step, h]

theorem step_of_writeIbuf {s : State} {i : Nat} {v : Word} {rest : List HostAction}
    (h : s.host = .writeIbuf i v :: rest) : step s = hostWrite Config.params i v (s.setHost rest) := by
  simp only [step, h]

theorem step_of_hardReset {s : State} {rest : List HostAction} (h : s.host = .hardReset :: rest) :
    step s = .next (hardReset (s.setHost rest)) := by simp only [step, h]

theorem perform_of_decoded {c : Command} {i : Instr} (h : decode c.word = .ok i) (s : State) :
    perform c s = exec i (latch c s) := by simp only [perform, h]

theorem perform_of_illegal {c : Command} {e : Illegal} (h : decode c.word = .error e) (s : State) :
    perform c s = raise .illegalCommand (latch c s) := by simp only [perform, h, refuseWord]

theorem hostWrite_inside {P : Params} {i : Nat} (h : i < 2 * P.maxN) (v : Word) (s : State) :
    hostWrite P i v s = .next (s.setIbuf (s.ibuf.writeWord i v)) := if_pos h

theorem hostWrite_outside {P : Params} {i : Nat} (h : 2 * P.maxN ≤ i) (v : Word) (s : State) :
    hostWrite P i v s = .fault (.noSuchWord i) := if_neg (Nat.not_lt.mpr h)

theorem hostWrite_completes_iff {P : Params} {i : Nat} {v : Word} {s : State} :
    Completes (hostWrite P i v s) ↔ i < 2 * P.maxN := by
  obtain h | h := Nat.lt_or_ge i (2 * P.maxN)
  · rw [hostWrite_inside h]
    exact iff_of_true (.next _) h
  · rw [hostWrite_outside h]
    exact iff_of_false (Completes.not_fault _) (Nat.not_lt.mpr h)

/-! ### The duties of the host -/

theorem hostDuty_of_idle {s : State} (h : s.host = []) : s.hostDuty := by simp only [State.hostDuty, h]

theorem hostDuty_of_hardReset {s : State} {rest : List HostAction} (h : s.host = .hardReset :: rest) :
    s.hostDuty := by simp only [State.hostDuty, h]

theorem hostDuty_of_illegal {s : State} {c : Command} {rest : List HostAction} {e : Illegal}
    (h : s.host = .command c :: rest) (hdecode : decode c.word = .error e) : s.hostDuty := by
  simp only [State.hostDuty, h, hdecode]

theorem hostDuty_writeIbuf {s : State} {i : Nat} {v : Word} {rest : List HostAction}
    (h : s.host = .writeIbuf i v :: rest) : s.hostDuty ↔ i < 2 * Config.params.maxN := by
  simp only [State.hostDuty, h]

theorem hostDuty_command {s : State} {c : Command} {rest : List HostAction} {i : Instr}
    (h : s.host = .command c :: rest) (hdecode : decode c.word = .ok i) :
    s.hostDuty ↔ CommandDuty i s := by
  simp only [State.hostDuty, h, hdecode]
  split
  · rename_i n hn
    cases hn
    exact commandDuty_process.symm
  · rename_i hne
    exact iff_of_true trivial fun n hn => absurd (congrArg Except.ok hn) (hne n)

/-- Moving the host's list on and latching the operands leave the duty as it was: it looks at the lifecycle
state and at `IBUF`. -/
theorem commandDuty_latch (i : Instr) (c : Command) (rest : List HostAction) (s : State) :
    CommandDuty i (latch c (s.setHost rest)) ↔ CommandDuty i s := Iff.rfl

theorem step_completes_iff (s : State) : Completes (step s) ↔ s.hostDuty := by
  cases h : s.host with
  | nil =>
    rw [step_of_idle h]
    exact iff_of_true (.next s) (hostDuty_of_idle h)
  | cons action rest =>
    cases action with
    | command c =>
      rw [step_of_command h]
      cases hdecode : decode c.word with
      | error e =>
        rw [perform_of_illegal hdecode]
        exact iff_of_true (.raise ..) (hostDuty_of_illegal h hdecode)
      | ok i =>
        rw [perform_of_decoded hdecode, exec_completes_iff, commandDuty_latch, hostDuty_command h hdecode]
    | writeIbuf i v => rw [step_of_writeIbuf h, hostWrite_completes_iff, hostDuty_writeIbuf h]
    | hardReset =>
      rw [step_of_hardReset h]
      exact iff_of_true (.next _) (hostDuty_of_hardReset h)

theorem exec_ne_refused (i : Instr) (s : State) (r : Refusal) : exec i s ≠ .refused r := by
  obtain ⟨t, ht⟩ | ⟨f, hf⟩ := exec_next_or_fault i s
  · rw [ht]
    nofun
  · rw [hf]
    nofun

theorem hostWrite_ne_refused (P : Params) (i : Nat) (v : Word) (s : State) (r : Refusal) :
    hostWrite P i v s ≠ .refused r := by
  rw [hostWrite]
  split <;> nofun

theorem step_ne_refused (s : State) (r : Refusal) : step s ≠ .refused r := by
  cases h : s.host with
  | nil =>
    rw [step_of_idle h]
    nofun
  | cons action rest =>
    cases action with
    | command c =>
      rw [step_of_command h]
      cases hdecode : decode c.word with
      | error e =>
        rw [perform_of_illegal hdecode]
        nofun
      | ok i =>
        rw [perform_of_decoded hdecode]
        exact exec_ne_refused i _ r
    | writeIbuf i v =>
      rw [step_of_writeIbuf h]
      exact hostWrite_ne_refused _ i v _ r
    | hardReset =>
      rw [step_of_hardReset h]
      nofun

end Sys2Proof.Machine
end

section
/-! The statements about the buffers as memory (R50 to R62): the host's write, `PROCESS` on an unwritten
word, and when a step completes. -/

namespace Sys2Proof.Proofs.BufferMemory

open Sys2Proof.Machine

/-- Settles O8: read after write for the word and for the bytes, and the stop outside `IBUF`. -/
theorem hostWriteReplacesOneWordOfIbuf : Obligations.HostWriteReplacesOneWordOfIbuf := by
  intro s i v rest hhost
  rw [step_of_writeIbuf hhost]
  refine ⟨fun hinside => ⟨s.ibuf.writeWord i v, hostWrite_inside hinside v _, ?_, fun j hj => ?_,
    fun a ha => ?_⟩, fun houtside => hostWrite_outside houtside v _⟩
  · rw [Memory.readWord_writeWord, if_pos rfl]
  · exact Memory.readWord_writeWord_other v hj.symm
  · exact Memory.getByte_writeWord_outside v ha

/-- Settles O37: the admitted batch is its loop, which reads the words in order. -/
theorem processFaultsOnTheFirstUnwrittenWord : Obligations.ProcessFaultsOnTheFirstUnwrittenWord := by
  intro s n j hrunning hfits hlt hj hbefore
  have hloop : processLoop hw (batchLength n) 0 s = .fault (.unwrittenWord j) :=
    processLoop_stops_at_first hlt hj fun i _ hi => hbefore i hi
  show execProcess n s = _
  rw [execProcess_of_fits hfits, whenRunning_of hrunning, hloop, thenRespond]

/-- Settles O50, by the host's oldest action: only `PROCESS` and a write of `IBUF` owe anything. -/
theorem stepCompletesExactlyUnderTheHostDuties : Obligations.StepCompletesExactlyUnderTheHostDuties :=
  fun s => ⟨step_completes_iff s, step_ne_refused s⟩

end Sys2Proof.Proofs.BufferMemory
end

section
/-! The decoder and the encoder said once (R72 to R77): a word is its three fields, its opcode selects one arm
of the decoder, and the decoder reads a command exactly from its encoding. -/

namespace Sys2Proof

/-! ### The fields of a word -/

theorem append_fields (w : Word) : opcodeField w ++ selField w ++ nField w = w := by
  simp only [opcodeField, selField, nField]
  rw [BitVec.extractLsb'_append_extractLsb'_eq_extractLsb' (by rfl),
    BitVec.extractLsb'_append_extractLsb'_eq_extractLsb' (by rfl)]
  exact BitVec.extractLsb'_eq_self

section append
variable (op sel : BitVec 8) (n : BitVec 16)
@[simp] theorem opcodeField_append : opcodeField (op ++ sel ++ n) = op :=
  (Laws.EncodingFields.fields_of_append op sel n).1
@[simp] theorem selField_append : selField (op ++ sel ++ n) = sel :=
  (Laws.EncodingFields.fields_of_append op sel n).2.1
@[simp] theorem nField_append : nField (op ++ sel ++ n) = n :=
  (Laws.EncodingFields.fields_of_append op sel n).2.2
end append

theorem eq_append_iff {w : Word} {op sel : BitVec 8} {n : BitVec 16} :
    w = op ++ sel ++ n ↔ opcodeField w = op ∧ selField w = sel ∧ nField w = n := by
  constructor
  · rintro rfl
    exact Laws.EncodingFields.fields_of_append op sel n
  · rintro ⟨rfl, rfl, rfl⟩
    exact (append_fields w).symm

theorem encode_eq_iff {i : Instr} {w : Word} :
    encode i = w ↔ opcodeField w = i.opcode ∧ selField w = i.selBits ∧ nField w = i.nBits :=
  eq_comm.trans eq_append_iff

/-! ### Register numbers -/

/-- A `sel` value names at most the one register whose number it is (R25, R75). -/
theorem Reg.ofSel_eq_some_iff {sel : BitVec 8} {r : Reg} : Reg.ofSel sel = some r ↔ sel = r.sel := by
  constructor
  · intro h
    unfold Reg.ofSel at h
    split_ifs at h <;> cases h <;> assumption
  · rintro rfl
    cases r <;> rfl

/-! ### The arms of the decoder -/

section arms
variable {i j : Instr} {w : Word}

@[simp] theorem decodeZ_eq_ok_iff : decodeZ j w = .ok i ↔ j = i ∧ selField w = 0#8 ∧ nField w = 0#16 := by
  by_cases hsel : selField w = 0#8 <;> by_cases hn : nField w = 0#16 <;> simp [decodeZ, hsel, hn]

@[simp] theorem decodeProcess_eq_ok_iff :
    decodeProcess w = .ok i ↔ selField w = 0#8 ∧ .process (nField w) = i := by
  by_cases hsel : selField w = 0#8 <;> simp [decodeProcess, hsel]

@[simp] theorem decodeGet_eq_ok_iff :
    decodeGet w = .ok i ↔ ∃ r, .get r = i ∧ nField w = 0#16 ∧ selField w = r.sel := by
  by_cases hn : nField w = 0#16
  · cases hr : Reg.ofSel (selField w) <;> simp [decodeGet, hn, hr, ← Reg.ofSel_eq_some_iff]
  · simp [decodeGet, hn]

@[simp] theorem decodeSetcfg_eq_ok_iff : decodeSetcfg w = .ok i ↔
    ∃ f, .setcfg f = i ∧ nField w = 0#16 ∧ f.isField = true ∧ selField w = f.sel := by
  by_cases hn : nField w = 0#16
  · cases hr : Reg.ofSel (selField w) with
    | none => simp [decodeSetcfg, hn, hr, ← Reg.ofSel_eq_some_iff]
    | some f => cases hf : f.isField <;> simp [decodeSetcfg, hn, hr, hf, ← Reg.ofSel_eq_some_iff]
  · simp [decodeSetcfg, hn]

end arms

/-- The arm of the decoder for the opcode of a command. -/
def Instr.decodeArm : Instr → Word → Except Illegal Instr
  | .setcfg _ => decodeSetcfg
  | .get _ => decodeGet
  | .process _ => decodeProcess
  | i => decodeZ i

/-- An arm reads only commands of its own opcode. -/
theorem opcode_eq_of_decodeArm {i j : Instr} {w : Word} (h : j.decodeArm w = .ok i) : i.opcode = j.opcode := by
  cases j with
  | setcfg _ =>
    obtain ⟨f, rfl, -⟩ := decodeSetcfg_eq_ok_iff.mp h
    rfl
  | get _ =>
    obtain ⟨r, rfl, -⟩ := decodeGet_eq_ok_iff.mp h
    rfl
  | process _ =>
    obtain ⟨-, rfl⟩ := decodeProcess_eq_ok_iff.mp h
    rfl
  | _ => rw [(decodeZ_eq_ok_iff.mp h).1]

/-- The arm of a command reads that command exactly from its own fields. -/
theorem decodeArm_eq_ok_self_iff {i : Instr} {w : Word} : i.decodeArm w = .ok i ↔
    i.wellFormed = true ∧ selField w = i.selBits ∧ nField w = i.nBits := by
  cases i <;> simp [Instr.decodeArm, Instr.wellFormed, Instr.selBits, Instr.nBits, and_comm, and_left_comm]

/-! ### The opcode selects the arm -/

/-- One command of each row of the opcode map, in its order (R74). -/
def Instr.oneOfEach : List Instr :=
  [.nop, .reset, .setcfg .alphaLoop, .config, .get .phase, .setfreq, .setphase, .step, .sincos, .adjphase,
    .adjfreq, .filter, .detect, .sample, .process 0#16]

/-- The assigned opcodes (R74, R77 (a)). -/
def assignedOpcodes : List Nat :=
  [0x00, 0x01, 0x02, 0x03, 0x04, 0x10, 0x11, 0x12, 0x13, 0x14, 0x15, 0x20, 0x30, 0x40, 0x41]

theorem assignedOpcodes_eq_map : assignedOpcodes = Instr.oneOfEach.map fun i => i.opcode.toNat := rfl

theorem exists_opcode_eq {op : BitVec 8} (h : op.toNat ∈ assignedOpcodes) : ∃ i : Instr, op = i.opcode := by
  rw [assignedOpcodes_eq_map] at h
  obtain ⟨i, -, hi⟩ := List.mem_map.mp h
  exact ⟨i, BitVec.eq_of_toNat_eq hi.symm⟩

theorem decode_of_opcode {i : Instr} {w : Word} (h : opcodeField w = i.opcode) : decode w = i.decodeArm w := by
  cases i <;> simp [decode, h, Instr.opcode, Instr.decodeArm]

theorem decode_of_unassigned {w : Word} (h : (opcodeField w).toNat ∉ assignedOpcodes) :
    decode w = .error .unassignedOpcode := by
  simp only [assignedOpcodes, List.mem_cons, List.not_mem_nil, not_or] at h
  simp [decode, BitVec.toNat_eq, h]

theorem decode_eq_ok_iff_decodeArm {i : Instr} {w : Word} :
    decode w = .ok i ↔ opcodeField w = i.opcode ∧ i.decodeArm w = .ok i := by
  constructor
  · intro h
    by_cases hop : (opcodeField w).toNat ∈ assignedOpcodes
    · obtain ⟨j, hj⟩ := exists_opcode_eq hop
      have harm : j.decodeArm w = .ok i := decode_of_opcode hj ▸ h
      have hi : opcodeField w = i.opcode := hj.trans (opcode_eq_of_decodeArm harm).symm
      exact ⟨hi, decode_of_opcode hi ▸ h⟩
    · rw [decode_of_unassigned hop] at h
      cases h
  · rintro ⟨hop, h⟩
    rw [decode_of_opcode hop, h]

/-- The decoder reads a command exactly from its encoding (R72 to R75). -/
theorem decode_eq_ok_iff {i : Instr} {w : Word} :
    decode w = .ok i ↔ i.wellFormed = true ∧ encode i = w := by
  rw [decode_eq_ok_iff_decodeArm, decodeArm_eq_ok_self_iff, encode_eq_iff]
  exact and_left_comm

theorem decode_encode {i : Instr} (h : i.wellFormed = true) : decode (encode i) = .ok i :=
  decode_eq_ok_iff.mpr ⟨h, rfl⟩

end Sys2Proof
end

section
/-! Legal and illegal words (R73, R75, R77): the format of an opcode says which fields are legal, and the
decoder and the rows of the opcode map both accept exactly those. -/

namespace Sys2Proof

/-! ### Formats -/

/-- The three formats (R73), format `S` with the `sel` values that R75 allows the opcode. -/
inductive FieldFormat where
  | Z
  | S (legal : List (BitVec 8))
  | N

/-- The fields a format allows (R73). -/
def FieldFormat.Allows : FieldFormat → BitVec 8 → BitVec 16 → Prop
  | .Z, sel, n => sel = 0#8 ∧ n = 0#16
  | .S legal, sel, n => n = 0#16 ∧ sel ∈ legal
  | .N, sel, _ => sel = 0#8

/-- The numbers of the overridable fields (R75). -/
def fieldNumbers : List (BitVec 8) := [0x09#8, 0x0A#8, 0x0C#8]

/-- The numbers of the registers (R21, R25). -/
def registerNumbers : List (BitVec 8) :=
  [0x00#8, 0x01#8, 0x02#8, 0x03#8, 0x08#8, 0x09#8, 0x0A#8, 0x0B#8, 0x0C#8, 0x0F#8]

/-- The format of a command's opcode (R74). -/
def Instr.format : Instr → FieldFormat
  | .setcfg _ => .S fieldNumbers
  | .get _ => .S registerNumbers
  | .process _ => .N
  | _ => .Z

theorem mem_fieldNumbers_iff {sel : BitVec 8} :
    sel ∈ fieldNumbers ↔ ∃ f : Reg, f.isField = true ∧ sel = f.sel := by
  constructor
  · intro h
    simp only [fieldNumbers, List.mem_cons, List.not_mem_nil, or_false] at h
    obtain rfl | rfl | rfl := h
    exacts [⟨.alphaLoop, rfl, rfl⟩, ⟨.betaLoop, rfl, rfl⟩, ⟨.timeConstant, rfl, rfl⟩]
  · rintro ⟨f, hf, rfl⟩
    cases f <;> revert hf <;> decide

theorem mem_registerNumbers_iff {sel : BitVec 8} : sel ∈ registerNumbers ↔ ∃ r : Reg, sel = r.sel := by
  constructor
  · intro h
    simp only [registerNumbers, List.mem_cons, List.not_mem_nil, or_false] at h
    obtain rfl | rfl | rfl | rfl | rfl | rfl | rfl | rfl | rfl | rfl := h
    exacts [⟨.phase, rfl⟩, ⟨.freq, rfl⟩, ⟨.accRe, rfl⟩, ⟨.accIm, rfl⟩, ⟨.alphaFilter, rfl⟩,
      ⟨.alphaLoop, rfl⟩, ⟨.betaLoop, rfl⟩, ⟨.limit, rfl⟩, ⟨.timeConstant, rfl⟩, ⟨.status, rfl⟩]
  · rintro ⟨r, rfl⟩
    cases r <;> decide

/-- An arm of the decoder accepts exactly the fields that the format of its opcode allows. -/
theorem exists_decodeArm_eq_ok_iff {i : Instr} {w : Word} :
    (∃ j, i.decodeArm w = .ok j) ↔ i.format.Allows (selField w) (nField w) := by
  cases i <;> simp [Instr.decodeArm, Instr.format, FieldFormat.Allows, mem_fieldNumbers_iff,
    mem_registerNumbers_iff]

theorem exists_decode_eq_error_iff {w : Word} :
    (∃ e, decode w = .error e) ↔ ¬ ∃ i, decode w = .ok i := by
  cases decode w <;> simp

/-- A word with an assigned opcode is illegal exactly when the format does not allow its fields (R77). -/
theorem exists_decode_eq_error_iff_of_opcode {i : Instr} {w : Word} (h : opcodeField w = i.opcode) :
    (∃ e, decode w = .error e) ↔ ¬ i.format.Allows (selField w) (nField w) := by
  rw [exists_decode_eq_error_iff, decode_of_opcode h, exists_decodeArm_eq_ok_iff]

/-! ### The rows of the opcode map -/

/-- The bits of `sel` that the mask of a format covers (R73). -/
def FieldFormat.selMask : FieldFormat → BitVec 8
  | .Z => BitVec.allOnes 8
  | .S _ => 0#8
  | .N => BitVec.allOnes 8

/-- The bits of `n` that the mask of a format covers (R73). -/
def FieldFormat.nMask : FieldFormat → BitVec 16
  | .Z => BitVec.allOnes 16
  | .S _ => BitVec.allOnes 16
  | .N => 0#16

/-- The mask of a format (R73): the opcode and every field that the format fixes. -/
def FieldFormat.mask (f : FieldFormat) : Word := BitVec.allOnes 8 ++ f.selMask ++ f.nMask

/-- The condition on `sel` that the mask leaves to a row (R73). -/
def FieldFormat.selLegal : FieldFormat → Option (List (BitVec 8))
  | .S legal => some legal
  | _ => none

/-- The row of the opcode map for a command, from its opcode and format (R74). -/
def Instr.row (i : Instr) : OpcodeRow :=
  ⟨i.mnemonic, i.opcode ++ 0#8 ++ 0#16, i.format.mask, i.format.selLegal⟩

theorem opcodeMap_eq_map_row : opcodeMap = Instr.oneOfEach.map Instr.row := by decide

/-- The opcode finds the row of a command. -/
theorem find?_oneOfEach (i : Instr) :
    (Instr.oneOfEach.find? fun j => j.opcode == i.opcode).map Instr.row = some i.row := by
  cases i <;> rfl

theorem row_mem_opcodeMap (i : Instr) : i.row ∈ opcodeMap := by
  obtain ⟨j, hj, hrow⟩ := Option.map_eq_some_iff.mp (find?_oneOfEach i)
  rw [opcodeMap_eq_map_row, ← hrow]
  exact List.mem_map_of_mem (List.mem_of_find?_eq_some hj)

theorem row_eq_of_opcode_eq {i j : Instr} (h : i.opcode = j.opcode) : i.row = j.row := by
  have hi := find?_oneOfEach i
  rw [h, find?_oneOfEach j] at hi
  exact (Option.some.inj hi).symm

theorem and_mask_eq_append_iff {f : FieldFormat} {w : Word} {op : BitVec 8} :
    w &&& f.mask = op ++ 0#8 ++ 0#16 ↔
      opcodeField w = op ∧ selField w &&& f.selMask = 0#8 ∧ nField w &&& f.nMask = 0#16 := by
  have hand : w &&& f.mask = opcodeField w ++ (selField w &&& f.selMask) ++ (nField w &&& f.nMask) := by
    conv_lhs => rw [← append_fields w, FieldFormat.mask, BitVec.and_append, BitVec.and_append]
    rw [BitVec.and_allOnes]
  simp [hand, eq_append_iff]

/-- The row of a command accepts exactly its opcode with the fields that the format allows (R73). -/
theorem row_accepts_iff {i : Instr} {w : Word} : i.row.accepts w = true ↔
    opcodeField w = i.opcode ∧ i.format.Allows (selField w) (nField w) := by
  simp only [Instr.row, OpcodeRow.accepts, Bool.and_eq_true, beq_iff_eq, and_mask_eq_append_iff]
  cases i.format <;> simp [FieldFormat.selMask, FieldFormat.nMask, FieldFormat.selLegal, FieldFormat.Allows,
    and_assoc, -BitVec.reduceAllOnes]

theorem exists_eq_row_of_mem {row : OpcodeRow} (h : row ∈ opcodeMap) : ∃ i : Instr, row = i.row := by
  rw [opcodeMap_eq_map_row] at h
  obtain ⟨i, -, rfl⟩ := List.mem_map.mp h
  exact ⟨i, rfl⟩

/-- A row accepts exactly the words that decode to a command of its opcode. -/
theorem row_accepts_iff_decode {i : Instr} {w : Word} : i.row.accepts w = true ↔
    opcodeField w = i.opcode ∧ ∃ j, decode w = .ok j := by
  rw [row_accepts_iff]
  refine and_congr_right fun hop => ?_
  rw [decode_of_opcode hop, exists_decodeArm_eq_ok_iff]

theorem row_accepts_of_decode {i : Instr} {w : Word} (h : decode w = .ok i) : i.row.accepts w = true :=
  row_accepts_iff_decode.mpr ⟨(decode_eq_ok_iff_decodeArm.mp h).1, i, h⟩

theorem eq_row_of_accepts {i : Instr} {w : Word} {row : OpcodeRow} (h : decode w = .ok i)
    (hrow : row ∈ opcodeMap) (haccepts : row.accepts w = true) : row = i.row := by
  obtain ⟨j, rfl⟩ := exists_eq_row_of_mem hrow
  apply row_eq_of_opcode_eq
  rw [← (row_accepts_iff_decode.mp haccepts).1, (decode_eq_ok_iff_decodeArm.mp h).1]

theorem accepts_eq_false_of_illegal {w : Word} {e : Illegal} {row : OpcodeRow} (h : decode w = .error e)
    (hrow : row ∈ opcodeMap) : row.accepts w = false := by
  obtain ⟨j, rfl⟩ := exists_eq_row_of_mem hrow
  rw [Bool.eq_false_iff, ne_eq, row_accepts_iff_decode]
  rintro ⟨-, i, hi⟩
  rw [h] at hi
  cases hi

theorem nodup_opcodeMap : opcodeMap.Nodup :=
  List.Nodup.of_map OpcodeRow.matchWord (by decide)

theorem length_filter_accepts_of_decode {i : Instr} {w : Word} (h : decode w = .ok i) :
    (opcodeMap.filter fun row => row.accepts w).length = 1 := by
  have hrow : opcodeMap.filter (fun row => row.accepts w) = opcodeMap.filter (· == i.row) :=
    List.filter_congr fun row hmem => Bool.eq_iff_iff.mpr <| by
      rw [beq_iff_eq]
      exact ⟨eq_row_of_accepts h hmem, fun heq => heq ▸ row_accepts_of_decode h⟩
  rw [hrow, ← List.countP_eq_length_filter]
  exact List.count_eq_one_of_mem nodup_opcodeMap (row_mem_opcodeMap i)

end Sys2Proof
end

section
/-! A step on an encoded command (R70, R72), and the two steps that `CONSTRUCT` is made of (R82). -/

namespace Sys2Proof.Machine

variable {s : State} {o : Operands} {rest : List HostAction}

theorem step_of_encoded {i : Instr} (hwf : i.wellFormed = true)
    (h : s.host = .command ⟨encode i, o⟩ :: rest) : step s = exec i ((s.setHost rest).setOperands o) := by
  rw [step_of_command h, perform_of_decoded (c := ⟨encode i, o⟩) (decode_encode hwf)]
  rfl

theorem step_of_encoded_reset (h : s.host = .command ⟨encode .reset, o⟩ :: rest) :
    step s = .next (okAnswer 0#32 0#32
      ((((s.setHost rest).setOperands o).setRegs Regs.reset).setStatus 0#32)) := by
  rw [step_of_encoded rfl h]
  rfl

/-- `CONFIG` that passes its check in `UNCONFIGURED` constructs the loop (R153). -/
theorem step_of_encoded_config (h : s.host = .command ⟨encode .config, o⟩ :: rest)
    (hr : s.running = false) (hvalid : configValid hw s.regs o.a = true) :
    step s = .next (okAnswer 0#32 0#32
      (((((s.setHost rest).setOperands o).setRegs (configure hw s.draws s.regs o.a o.b o.c)).setStatus
        (withRun s.status)).addDraws 5)) := by
  rw [step_of_encoded rfl h]
  exact (whenUnconfigured_of (s := (s.setHost rest).setOperands o) hr _).trans (if_pos hvalid)

end Sys2Proof.Machine
end

section
/-! The statements about the command word (R72 to R77), the command it makes a step run (R70) and `CONSTRUCT`
(R82): each is read off the laws of the decoder and of the step. -/

namespace Sys2Proof.Proofs.Encoding

open Sys2Proof.Machine

/-- Settles O2. -/
theorem encodedCommandDecodesToItself : Obligations.EncodedCommandDecodesToItself :=
  fun _ hwf => decode_encode hwf

/-- Settles O3: the decoder reads a command from no word but its encoding. -/
theorem decodedWordIsItsEncoding : Obligations.DecodedWordIsItsEncoding :=
  fun _ _ hdecode => (decode_eq_ok_iff.mp hdecode).symm

/-- Settles O4: the row is the command's own, and an accepting row has the word's opcode. -/
theorem decodedWordMatchesExactlyOneRow : Obligations.DecodedWordMatchesExactlyOneRow :=
  fun _ => ⟨fun i hdecode => ⟨i.row, row_mem_opcodeMap i, rfl, row_accepts_of_decode hdecode,
      fun _ hother haccepts => eq_row_of_accepts hdecode hother haccepts⟩,
    fun _ hdecode _ hrow => accepts_eq_false_of_illegal hdecode hrow⟩

/-- Settles O5: an unassigned opcode is case (a) of R77, and of an assigned one the format's fields decide,
which are cases (b) to (d). -/
theorem illegalWordsRaiseIllegalCommand : Obligations.IllegalWordsRaiseIllegalCommand := by
  refine ⟨fun w => ?_, fun w => ?_, fun s c rest e hhost hdecode => ?_⟩
  · by_cases hop : (opcodeField w).toNat ∈ assignedOpcodes
    · obtain ⟨i, hi⟩ := exists_opcode_eq hop
      rw [exists_decode_eq_error_iff_of_opcode hi, hi]
      cases i <;> simp [Instr.opcode, Instr.format, FieldFormat.Allows, fieldNumbers, registerNumbers,
        BitVec.toNat_eq, -not_and, not_and_or]
    · exact iff_of_true ⟨_, decode_of_unassigned hop⟩ (.inl hop)
  · cases hdecode : decode w with
    | ok i => exact .inl (length_filter_accepts_of_decode hdecode)
    | error e => exact .inr ⟨e, rfl⟩
  · rw [step_of_command hhost, perform_of_illegal hdecode]
    rfl

/-- Settles O21: `RESET` leaves the default time constant, so `CONFIG` passes its check when the rate does. -/
theorem constructBuildsAFreshLoop : Obligations.ConstructBuildsAFreshLoop := by
  intro s rate offset ph rest hhost hrate
  have hvalid : configValid hw Regs.reset rate = true := by
    rw [configValid, Bool.and_eq_true]
    exact ⟨hrate, rfl⟩
  have hstatus : withRun 0#32 = 0x00000001#32 := by decide
  refine ⟨_, _, step_of_encoded_reset hhost, step_of_encoded_config rfl BitVec.getLsbD_zero hvalid, ?_⟩
  exact ⟨rfl, hstatus, rfl, rfl, rfl, rfl, rfl, rfl, rfl, rfl, rfl, rfl, rfl⟩

/-- Settles O1, by running the decoder on the words of the table. -/
theorem decodeKnownWords : Obligations.DecodeKnownWords := by
  unfold Obligations.DecodeKnownWords
  decide

/-- Settles O6. -/
theorem stepRunsTheDecodedCommand : Obligations.StepRunsTheDecodedCommand := by
  intro s c rest i hhost hdecode
  rw [step_of_command hhost, perform_of_decoded hdecode]
  rfl

end Sys2Proof.Proofs.Encoding
end

section
/-! The oscillator (R90 to R97): its commands as one contract operation each, admitted in `RUNNING`, and what
two adjustments in a row come to. -/

namespace Sys2Proof.Machine

/-! ### The commands -/

section exec

variable (s : State)

theorem exec_setfreq :
    exec .setfreq s = whenRunning s (respond 0#32 0#32 (s.setRegs (s.regs.setFreq s.operands.a))) := rfl

theorem exec_setphase :
    exec .setphase s = whenRunning s (respond 0#32 0#32 (s.setRegs (s.regs.setPhase s.operands.a))) := rfl

theorem exec_step : exec .step s =
    whenRunning s (respond 0#32 0#32 ((s.setRegs (stepPhase hw s.draws s.regs)).addDraws 1)) := rfl

theorem exec_sincos :
    exec .sincos s = whenRunning s (respond (hw.sin s.regs.phase) (hw.cos s.regs.phase) s) := rfl

theorem exec_adjphase : exec .adjphase s =
    whenRunning s (respond 0#32 0#32
      ((s.setRegs (adjustPhase hw s.draws s.regs s.operands.a)).addDraws 1)) := rfl

theorem exec_adjfreq : exec .adjfreq s =
    whenRunning s (respond 0#32 0#32
      ((s.setRegs (adjustFreq hw s.draws s.regs s.operands.a)).addDraws 1)) := rfl

end exec

/-! ### Repeated adjustments -/

section adjust

variable {α : Type} (N : Numerics α) (d d' : Nat) (r : Regs α) (x y : α)

@[simp] theorem adjustPhase_phase : (adjustPhase N d r x).phase = N.fadd d r.phase x := rfl

@[simp] theorem adjustFreq_freq : (adjustFreq N d r x).freq = N.fadd d r.freq x := rfl

variable {N d d' r x y}

/-- Two adjustments of the phase are one wherever the additions associate. -/
theorem adjustPhase_adjustPhase {sum : α}
    (h : N.fadd d' (N.fadd d r.phase x) y = N.fadd d r.phase sum) :
    adjustPhase N d' (adjustPhase N d r x) y = adjustPhase N d r sum :=
  congrArg r.setPhase h

/-- Two adjustments of the frequency are one wherever the additions associate. -/
theorem adjustFreq_adjustFreq {sum : α}
    (h : N.fadd d' (N.fadd d r.freq x) y = N.fadd d r.freq sum) :
    adjustFreq N d' (adjustFreq N d r x) y = adjustFreq N d r sum :=
  congrArg r.setFreq h

end adjust

/-! ### Half a unit in the last place of `1.0` -/

/-- The sum of finite operands draws no NaN. -/
theorem fadd_of_isFinite (d : Nat) {a b : Word} (ha : F32.isFinite a = true) (hb : F32.isFinite b = true) :
    hw.fadd d a b = if F32.value a + F32.value b = 0 then F32.pack (F32.sign a && F32.sign b) 0
      else F32.pack (decide (F32.value a + F32.value b < 0))
        (F32.roundRatio (F32.value a + F32.value b).natAbs 1) :=
  F32.add_of_isFinite _ ha hb

/-- `2^-24 + 2^-24` is exact. -/
theorem fadd_half_ulp_half_ulp (d : Nat) : hw.fadd d 0x33800000#32 0x33800000#32 = 0x34000000#32 :=
  (fadd_of_isFinite d (by decide) (by decide)).trans (by decide)

/-- `1 + 2^-24` lies in the middle between `1` and its successor, and the tie goes to the even `1`. -/
theorem fadd_one_half_ulp (d : Nat) : hw.fadd d 0x3F800000#32 0x33800000#32 = 0x3F800000#32 :=
  (fadd_of_isFinite d (by decide) (by decide)).trans (by decide)

/-- `1 + 2^-23` is the successor of `1`. -/
theorem fadd_one_ulp (d : Nat) : hw.fadd d 0x3F800000#32 0x34000000#32 = 0x3F800001#32 :=
  (fadd_of_isFinite d (by decide) (by decide)).trans (by decide)

end Sys2Proof.Machine
end

section
/-! The statements about the oscillator (R91 to R97). -/

namespace Sys2Proof.Proofs.Oscillator

open Sys2Proof.Machine

/-- Settles O26: REF inherits associativity from the reals; in B32 each of two half units in the last place
is a tie that falls back to `1.0`, and their sum is one whole unit. -/
theorem adjustmentsAreAdditiveInRefAndNotInB32 : Obligations.AdjustmentsAreAdditiveInRefAndNotInB32 := by
  refine ⟨fun z d r a b => ⟨adjustPhase_adjustPhase (add_assoc r.phase a b),
    adjustFreq_adjustFreq (add_assoc r.freq a b)⟩, fun d r hphase hfreq => ?_⟩
  refine ⟨fadd_half_ulp_half_ulp d, ?_, ?_, ?_, ?_⟩
  · rw [adjustPhase_phase, adjustPhase_phase, hphase, fadd_one_half_ulp, fadd_one_half_ulp]
  · rw [adjustPhase_phase, hphase, fadd_one_ulp]
  · rw [adjustFreq_freq, adjustFreq_freq, hfreq, fadd_one_half_ulp, fadd_one_half_ulp]
  · rw [adjustFreq_freq, hfreq, fadd_one_ulp]

/-- Settles O22: each command, once admitted, answers on the operand in its register. -/
theorem setfreqAndSetphaseStoreTheOperand : Obligations.SetfreqAndSetphaseStoreTheOperand := by
  refine ⟨by decide, by decide, fun s => ?_⟩
  rw [exec_setfreq, exec_setphase]
  exact ⟨fun h => ⟨whenRunning_of h _, whenRunning_of h _⟩,
    fun h => ⟨whenRunning_not h _, whenRunning_not h _⟩⟩

/-- Settles O23: the sum of the registers is stored as the addition rounds it. -/
theorem stepAdvancesThePhase : Obligations.StepAdvancesThePhase := by
  refine ⟨by decide, fun s => ?_⟩
  rw [exec_step]
  exact ⟨fun h => whenRunning_of h _, fun h => whenRunning_not h _⟩

/-- Settles O24: the state answered on is the state before. -/
theorem sincosReadsThePhase : Obligations.SincosReadsThePhase := by
  refine ⟨by decide, fun s => ?_⟩
  rw [exec_sincos]
  exact ⟨fun h => whenRunning_of h _, fun h => whenRunning_not h _⟩

/-- Settles O25: each sum is stored in its own register, with no bound applied to it. -/
theorem adjustmentsAddTheOperand : Obligations.AdjustmentsAddTheOperand := by
  refine ⟨by decide, by decide, fun s => ?_⟩
  rw [exec_adjphase, exec_adjfreq]
  exact ⟨fun h => ⟨whenRunning_of h _, whenRunning_of h _⟩,
    fun h => ⟨whenRunning_not h _, whenRunning_not h _⟩⟩

end Sys2Proof.Proofs.Oscillator
end

section
/-! The loop filter (R110 to R112): its command as one contract operation, admitted in `RUNNING`, and in REF
each output as a step of the accumulator towards the input. -/

namespace Sys2Proof.Machine

theorem exec_filter (s : State) : exec .filter s =
    whenRunning s (respond (filterOut hw s.draws s.regs (opAB s)).re (filterOut hw s.draws s.regs (opAB s)).im
      ((s.setRegs (s.regs.setAcc (filterOut hw s.draws s.regs (opAB s)))).addDraws 7)) := rfl

section filter

variable {z : ℝ} {d : Nat} {r : Regs ℝ} {x : Cpx ℝ}

theorem filterOut_ref : filterOut (ref z) d r x =
    ⟨r.alphaFilter * x.re + (1 - r.alphaFilter) * r.accRe,
      r.alphaFilter * x.im + (1 - r.alphaFilter) * r.accIm⟩ := rfl

/-! ### The step response -/

/-- Under a constant input every output's distance from the input is `1 − alpha_filter` times the one
before, from whatever the accumulator holds at the start. -/
theorem getElem?_filterAll_replicate {n k : Nat} (hk : k < n) :
    (filterAll (ref z) r (List.replicate n x))[k]? =
      some ⟨x.re + (1 - r.alphaFilter) ^ (k + 1) * (r.accRe - x.re),
        x.im + (1 - r.alphaFilter) ^ (k + 1) * (r.accIm - x.im)⟩ := by
  induction k generalizing r n with
  | zero =>
    obtain ⟨m, rfl⟩ := Nat.exists_eq_add_of_lt hk
    simp only [List.replicate_succ, filterAll, List.getElem?_cons_zero, filterOut_ref, Option.some.injEq,
      Cpx.mk.injEq]
    constructor <;> ring
  | succ k ih =>
    obtain ⟨m, rfl⟩ := Nat.exists_eq_add_of_lt hk
    simp only [List.replicate_succ, filterAll, List.getElem?_cons_succ]
    rw [ih (by omega)]
    simp only [Regs.setAcc_alphaFilter, Regs.setAcc_accRe, Regs.setAcc_accIm, filterOut_ref,
      Option.some.injEq, Cpx.mk.injEq]
    constructor <;> ring

/-! ### Boundedness -/

/-- The square of a weighted mean is at most the mean of the squares. -/
theorem sq_weightedMean_le {t : ℝ} (h0 : 0 ≤ t) (h1 : t ≤ 1) (a b : ℝ) :
    (t * a + (1 - t) * b) ^ 2 ≤ t * a ^ 2 + (1 - t) * b ^ 2 :=
  even_two.convexOn_pow.2 trivial trivial h0 (sub_nonneg.2 h1) (add_sub_cancel t 1)

variable {B : ℝ} (h0 : 0 ≤ r.alphaFilter) (h1 : r.alphaFilter ≤ 1)
  (hacc : r.accRe ^ 2 + r.accIm ^ 2 ≤ B)
include h0 h1 hacc

/-- An output lies on the segment from the accumulator to the input, so a disc around 0
that holds both holds it. -/
theorem filterOut_ref_bounded (hx : x.re ^ 2 + x.im ^ 2 ≤ B) :
    (filterOut (ref z) d r x).re ^ 2 + (filterOut (ref z) d r x).im ^ 2 ≤ B := by
  rw [filterOut_ref]
  calc _ ≤ (r.alphaFilter * x.re ^ 2 + (1 - r.alphaFilter) * r.accRe ^ 2) +
        (r.alphaFilter * x.im ^ 2 + (1 - r.alphaFilter) * r.accIm ^ 2) :=
        add_le_add (sq_weightedMean_le h0 h1 ..) (sq_weightedMean_le h0 h1 ..)
    _ = r.alphaFilter * (x.re ^ 2 + x.im ^ 2) + (1 - r.alphaFilter) * (r.accRe ^ 2 + r.accIm ^ 2) := by ring
    _ ≤ r.alphaFilter * B + (1 - r.alphaFilter) * B :=
        add_le_add (mul_le_mul_of_nonneg_left hx h0) (mul_le_mul_of_nonneg_left hacc (sub_nonneg.2 h1))
    _ = B := by ring

theorem filterAll_ref_bounded {xs : List (Cpx ℝ)} (hxs : ∀ x ∈ xs, x.re ^ 2 + x.im ^ 2 ≤ B) :
    ∀ y ∈ filterAll (ref z) r xs, y.re ^ 2 + y.im ^ 2 ≤ B := by
  induction xs generalizing r with
  | nil => exact List.forall_mem_nil _
  | cons x xs ih =>
    obtain ⟨hx, hrest⟩ := List.forall_mem_cons.1 hxs
    have hout := filterOut_ref_bounded (z := z) (d := 0) h0 h1 hacc hx
    exact List.forall_mem_cons.2 ⟨hout, ih h0 h1 hout hrest⟩

end filter

end Sys2Proof.Machine
end

section
/-! The statements about the loop filter (R110 to R112). -/

namespace Sys2Proof.Proofs.LoopFilter

open Sys2Proof.Machine

/-- Settles O29: the accumulator starts at the distance of the whole input. -/
theorem filterStepResponseInRef : Obligations.FilterStepResponseInRef := by
  intro z r x n hre him hn
  rw [getElem?_filterAll_replicate (Nat.sub_lt hn one_pos), Nat.sub_add_cancel hn, hre, him]
  simp only [Option.some.injEq, Cpx.mk.injEq]
  constructor <;> ring

/-- Settles O30: the accumulator starts at the centre of the disc that holds the inputs. -/
theorem filterIsBoundedInRef : Obligations.FilterIsBoundedInRef := by
  intro z M r xs h0 h1 hre him _ hxs
  refine filterAll_ref_bounded h0.le h1.le ?_ hxs
  calc r.accRe ^ 2 + r.accIm ^ 2 = 0 := by rw [hre, him]; ring
    _ ≤ M ^ 2 := sq_nonneg M

/-- Settles O28: the admitted command's output, lane by lane, is the recurrence written out. -/
theorem filterAppliesTheRecurrence : Obligations.FilterAppliesTheRecurrence := by
  refine ⟨by decide, fun s => ?_⟩
  rw [exec_filter]
  exact ⟨fun h => whenRunning_of h _, fun h => whenRunning_not h _⟩

end Sys2Proof.Proofs.LoopFilter
end

section
/-! The phase detector (R120 to R122): its command as the saturated arctangent, admitted in `RUNNING`, and
where a saturated value lies. -/

namespace Sys2Proof.Machine

theorem exec_detect (s : State) :
    exec .detect s = whenRunning s (respond (detectPhase hw (opAB s)) 0#32 s) := rfl

/-- R5: of two zeros the arctangent is the parameter, whatever the approximation. -/
theorem atan2Of_of_isZero (P : Params) {y x : Word} (hy : F32.isZero y = true) (hx : F32.isZero x = true) :
    atan2Of P y x = P.atan2Zero (F32.sign y) (F32.sign x) := by
  rw [atan2Of, hy, hx, Bool.and_self, if_pos rfl]

theorem F32.lt_eq_true_iff {a b : Word} :
    F32.lt a b = true ↔ F32.isNaN a = false ∧ F32.isNaN b = false ∧ F32.key a < F32.key b := by
  simp [F32.lt, and_assoc]

theorem F32.lt_trans {a b c : Word} (hab : F32.lt a b = true) (hbc : F32.lt b c = true) :
    F32.lt a c = true := by
  obtain ⟨ha, -, hkab⟩ := F32.lt_eq_true_iff.1 hab
  obtain ⟨-, hc, hkbc⟩ := F32.lt_eq_true_iff.1 hbc
  exact F32.lt_eq_true_iff.2 ⟨ha, hc, hkab.trans hkbc⟩

/-! ### The three branches of the saturation -/

section branches

variable {α : Type} {N : Numerics α} {L x : α}

theorem clamp_of_above (h : N.fgt x L = true) : clamp N L x = L := if_pos h

theorem clamp_of_below (hu : N.fgt x L = false) (hl : N.flt x (N.fneg L) = true) :
    clamp N L x = N.fneg L := by
  rw [clamp, hu, hl, if_neg Bool.false_ne_true, if_pos rfl]

theorem clamp_of_inside (hu : N.fgt x L = false) (hl : N.flt x (N.fneg L) = false) :
    clamp N L x = x := by
  rw [clamp, hu, hl, if_neg Bool.false_ne_true, if_neg Bool.false_ne_true]

end branches

/-! ### Where a saturated value lies -/

/-- R121: a number from `-L` to `L`, both ends included. -/
def Saturated (L x : Word) : Prop :=
  F32.isNaN x = false ∧ F32.gt x L = false ∧ F32.lt x (F32.neg L) = false

theorem saturated_halfPi : Saturated Config.halfPi Config.halfPi := by unfold Saturated; decide

theorem saturated_neg_halfPi : Saturated Config.halfPi (F32.neg Config.halfPi) := by unfold Saturated; decide

section saturation

variable {P : Params} {L x : Word}

/-- What lies below the lower bound does not lie above the upper one, so the branch tested first does not
take it. -/
theorem clamp_of_lt_neg (hneg : Saturated L (F32.neg L)) (h : F32.lt x (F32.neg L) = true) :
    clamp (b32 P) L x = F32.neg L := by
  obtain ⟨-, hneg_le, -⟩ := hneg
  have hx : F32.gt x L = false :=
    Bool.eq_false_iff.2 fun hgt => Bool.eq_false_iff.1 hneg_le (F32.lt_trans hgt h)
  exact clamp_of_below hx h

theorem saturated_clamp (hpos : Saturated L L) (hneg : Saturated L (F32.neg L)) (hx : F32.isNaN x = false) :
    Saturated L (clamp (b32 P) L x) := by
  cases hu : F32.gt x L with
  | true => rwa [clamp_of_above (N := b32 P) hu]
  | false =>
    cases hl : F32.lt x (F32.neg L) with
    | true => rwa [clamp_of_lt_neg hneg hl]
    | false =>
      rw [clamp_of_inside (N := b32 P) hu hl]
      exact ⟨hx, hu, hl⟩

end saturation

end Sys2Proof.Machine
end

section
/-! The statements about the phase detector (R120, R121). -/

namespace Sys2Proof.Proofs.PhaseDetector

open Sys2Proof.Machine

/-- Settles O34: each bound lies within the bounds, and an arctangent that meets neither test does so by the
tests' failure. -/
theorem detectedErrorIsBounded : Obligations.DetectedErrorIsBounded := by
  intro P z hx
  obtain ⟨hnum, hle, hge⟩ := saturated_clamp (P := P) saturated_halfPi saturated_neg_halfPi hx
  exact ⟨hnum, hle, hge, clamp_of_above, clamp_of_lt_neg saturated_neg_halfPi⟩

/-- Settles O33: the state answered on is the state before, and two zeros are the arctangent's own case. -/
theorem detectAnswersTheSaturatedArctangent : Obligations.DetectAnswersTheSaturatedArctangent := by
  refine ⟨by decide, fun s => ?_⟩
  rw [exec_detect]
  refine ⟨fun h => whenRunning_of h _, fun h ha hb => ?_, fun h => whenRunning_not h _⟩
  have hzero : hw.atan2 (opAB s).im (opAB s).re = _ := atan2Of_of_isZero Config.params hb ha
  rw [whenRunning_of h, detectPhase, hzero]
  rfl

end Sys2Proof.Proofs.PhaseDetector
end

section
/-! The loop controller (R130 to R133): the pipeline over a stream of samples, and the batch loop as that
stream, from the samples it reads to the outputs it writes. -/

namespace Sys2Proof.Machine

/-! ### One sample -/

section pipe

variable {α : Type} (N : Numerics α) (d : Nat) (r : Regs α) (x : Cpx α)

/-- Stages 5 and 6 of R130: each correction is a gain times the error that the detector gives for the new
accumulator. -/
theorem pipe_regs : (pipe N d r x).1 =
    ((r.setAcc (pipe N d r x).1.acc).setPhase (N.fadd (d + 15) (N.fadd d r.phase r.freq)
      (N.fmul (d + 14) r.alphaLoop (detectPhase N (pipe N d r x).1.acc)))).setFreq
      (N.fadd (d + 17) r.freq (N.fmul (d + 16) r.betaLoop (detectPhase N (pipe N d r x).1.acc))) := rfl

end pipe

/-! ### Samples in a buffer -/

namespace Memory

/-- A buffer holds the samples `xs` from sample `k` on (R51). -/
def HoldsFrom (m : Memory) (k : Nat) (xs : List (Cpx Word)) : Prop :=
  ∀ (j : Nat) (x : Cpx Word), xs[j]? = some x →
    m.readWord (2 * (k + j)) = some x.re ∧ m.readWord (2 * (k + j) + 1) = some x.im

theorem holdsFrom_nil (m : Memory) (k : Nat) : m.HoldsFrom k [] := by
  intro j x h
  cases h

theorem holdsFrom_cons {m : Memory} {k : Nat} {x : Cpx Word} {xs : List (Cpx Word)} :
    m.HoldsFrom k (x :: xs) ↔
      (m.readWord (2 * k) = some x.re ∧ m.readWord (2 * k + 1) = some x.im) ∧ m.HoldsFrom (k + 1) xs := by
  constructor
  · refine fun h => ⟨h 0 x rfl, fun j y hy => ?_⟩
    rw [Nat.add_assoc, Nat.add_comm 1 j]
    exact h (j + 1) y hy
  · rintro ⟨hx, hxs⟩ (_ | j) y hy
    · cases hy
      exact hx
    · rw [Nat.add_comm j 1, ← Nat.add_assoc]
      exact hxs j y hy

/-- Write the samples `ys` from sample `k` on, in order (R51). -/
def writeSamples : Memory → Nat → List (Cpx Word) → Memory
  | m, _, [] => m
  | m, k, y :: ys => writeSamples (m.writeSample k y) (k + 1) ys

theorem getByte_writeSamples_outside {m : Memory} {k a : Nat} {ys : List (Cpx Word)}
    (h : a < 8 * k ∨ 8 * (k + ys.length) ≤ a) : (m.writeSamples k ys).getByte a = m.getByte a := by
  induction ys generalizing m k with
  | nil => rfl
  | cons y ys ih =>
    rw [List.length_cons] at h
    rw [writeSamples, ih (by omega), getByte_writeSample_outside y (by omega)]

theorem readWord_writeSamples_below {m : Memory} {k i : Nat} {ys : List (Cpx Word)} (h : i < 2 * k) :
    (m.writeSamples k ys).readWord i = m.readWord i := by
  simp only [readWord]
  rw [getByte_writeSamples_outside (.inl (by omega)), getByte_writeSamples_outside (.inl (by omega)),
    getByte_writeSamples_outside (.inl (by omega)), getByte_writeSamples_outside (.inl (by omega))]

theorem writeSamples_holdsFrom (m : Memory) (k : Nat) (ys : List (Cpx Word)) :
    (m.writeSamples k ys).HoldsFrom k ys := by
  induction ys generalizing m k with
  | nil => exact holdsFrom_nil _ _
  | cons y ys ih =>
    refine holdsFrom_cons.2 ⟨?_, ih _ _⟩
    rw [writeSamples, readWord_writeSamples_below (by omega), readWord_writeSamples_below (by omega)]
    simp [readWord_writeSample]

end Memory

theorem State.holds_iff {s : State} {xs : List (Cpx Word)} : s.holds xs ↔ s.ibuf.HoldsFrom 0 xs := by
  simp only [State.holds, Memory.HoldsFrom, Nat.zero_add]

theorem State.emitted_iff {s : State} {ys : List (Cpx Word)} : s.emitted ys ↔ s.obuf.HoldsFrom 0 ys := by
  simp only [State.emitted, Memory.HoldsFrom, Nat.zero_add, hostReadObuf]

/-! ### The pipeline over a stream -/

section stream

variable {α : Type} (N : Numerics α)

@[simp] theorem length_pipeAll (d : Nat) (r : Regs α) (xs : List (Cpx α)) :
    (pipeAll N d r xs).2.length = xs.length := by
  induction xs generalizing d r with
  | nil => rfl
  | cons x xs ih => exact congrArg (· + 1) (ih ..)

/-- A stream cut in two: the second part goes on from the registers and the draws the first one leaves. -/
theorem pipeAll_append (d : Nat) (r : Regs α) (xs zs : List (Cpx α)) :
    pipeAll N d r (xs ++ zs) =
      ((pipeAll N (d + pipeDraws * xs.length) (pipeAll N d r xs).1 zs).1,
        (pipeAll N d r xs).2 ++ (pipeAll N (d + pipeDraws * xs.length) (pipeAll N d r xs).1 zs).2) := by
  induction xs generalizing d r with
  | nil => rfl
  | cons x xs ih =>
    have hdraws : d + pipeDraws * (x :: xs).length = d + pipeDraws + pipeDraws * xs.length := by
      rw [List.length_cons]
      ring
    rw [hdraws, List.cons_append, pipeAll, ih]
    rfl

end stream

/-! ### The batch loop -/

/-- What the batch loop leaves of `s` after the samples `xs`, the first of them sample `k`: the registers of
the stream, its outputs in `OBUF`, and its draws made. -/
def batchDone (N : Numerics Word) (k : Nat) (xs : List (Cpx Word)) (s : State) : State :=
  ((s.setRegs (pipeAll N s.draws s.regs xs).1).setObuf
    (s.obuf.writeSamples k (pipeAll N s.draws s.regs xs).2)).addDraws (pipeDraws * xs.length)

theorem batchDone_processOne (N : Numerics Word) (k : Nat) (x : Cpx Word) (xs : List (Cpx Word)) (s : State) :
    batchDone N (k + 1) xs (processOne N s k x) = batchDone N k (x :: xs) s := by
  have hdraws : s.draws + pipeDraws + pipeDraws * xs.length = s.draws + pipeDraws * (x :: xs).length := by
    rw [List.length_cons]
    ring
  exact congrArg (fun n => ({ batchDone N k (x :: xs) s with draws := n } : State)) hdraws

/-- R132: the batch loop over written samples is the pipeline over the stream of them. -/
theorem processLoop_of_holdsFrom {N : Numerics Word} {k : Nat} {xs : List (Cpx Word)} {s : State}
    (h : s.ibuf.HoldsFrom k xs) : processLoop N xs.length k s = .next (batchDone N k xs s) := by
  induction xs generalizing k s with
  | nil => rfl
  | cons x xs ih =>
    obtain ⟨⟨hre, him⟩, hxs⟩ := Memory.holdsFrom_cons.1 h
    simp only [List.length_cons, processLoop, hre, him]
    rw [ih (s := processOne N s k x) hxs, batchDone_processOne]

theorem exec_process (n : BitVec 16) (s : State) : exec (.process n) s = processCmd Config.params n s := rfl

section batch

variable {n : BitVec 16} {xs : List (Cpx Word)} {s : State}

/-- An admitted batch that fits the buffers and has its samples completes with the stream's result. -/
theorem exec_process_of_holds (hrun : s.running = true) (hfits : n.toNat ≤ Config.params.maxN)
    (hlen : xs.length = n.toNat) (hxs : s.holds xs) :
    exec (.process n) s = .next (okAnswer 0#32 0#32 (batchDone hw 0 xs s)) := by
  have hloop := processLoop_of_holdsFrom (N := hw) (State.holds_iff.1 hxs)
  rw [hlen] at hloop
  refine (execProcess_of_fits hfits s).trans ?_
  rw [whenRunning_of hrun, batchLength, hloop]
  rfl

theorem batchDone_emitted (xs : List (Cpx Word)) (s : State) :
    (okAnswer 0#32 0#32 (batchDone hw 0 xs s)).emitted (pipeAll hw s.draws s.regs xs).2 :=
  State.emitted_iff.2 (Memory.writeSamples_holdsFrom _ _ _)

end batch

/-! ### Single samples -/

theorem exec_sample (s : State) : exec .sample s = sampleCmd Config.params s := rfl

/-- What an admitted `SAMPLE` leaves of `s` (R131): the pipeline's registers, its output responded. -/
def sampleAnswer (P : Params) (s : State) : State :=
  okAnswer (pipe (b32 P) s.draws s.regs (opAB s)).2.re (pipe (b32 P) s.draws s.regs (opAB s)).2.im
    ((s.setRegs (pipe (b32 P) s.draws s.regs (opAB s)).1).addDraws pipeDraws)

theorem sampleAnswer_response {P : Params} {s : State} {y : Cpx Word}
    (h : (pipe (b32 P) s.draws s.regs (opAB s)).2 = y) :
    (sampleAnswer P s).response = some ⟨0x00#8, y.re, y.im⟩ := by
  rw [sampleAnswer, okAnswer_response, h]

theorem sampleCmd_of_running {P : Params} {s : State} (h : s.running = true) :
    sampleCmd P s = .next (sampleAnswer P s) := whenRunning_of h _

theorem sampleCmd_of_not_running {P : Params} {s : State} (h : s.running = false) :
    sampleCmd P s = raise .wrongState s := whenRunning_not h _

/-- A sample that answers is followed by the rest of the inputs on the state it leaves. -/
theorem sampleRun_cons {P : Params} {s t u : State} {x : Cpx Word} {xs ys : List (Cpx Word)} {r : Response}
    (hsample : sampleCmd P (s.setOperands ⟨x.re, x.im, 0⟩) = .next t) (hresponse : t.response = some r)
    (hrest : sampleRun P t xs = some (u, ys)) :
    sampleRun P s (x :: xs) = some (u, ⟨r.ra, r.rb⟩ :: ys) := by
  simp only [sampleRun, hsample, hresponse, hrest]

/-- One `SAMPLE` per input is the pipeline over the stream of inputs. -/
theorem sampleRun_of_running {P : Params} {xs : List (Cpx Word)} {s : State} (h : s.running = true) :
    ∃ u, sampleRun P s xs = some (u, (pipeAll (b32 P) s.draws s.regs xs).2) ∧
      u.regs = (pipeAll (b32 P) s.draws s.regs xs).1 ∧ u.draws = s.draws + pipeDraws * xs.length := by
  induction xs generalizing s with
  | nil => exact ⟨s, rfl, rfl, rfl⟩
  | cons x xs ih =>
    obtain ⟨u, hrest, hregs, hdraws⟩ := ih (s := sampleAnswer P (s.setOperands ⟨x.re, x.im, 0⟩)) h
    refine ⟨u, sampleRun_cons (sampleCmd_of_running h) rfl hrest, hregs, hdraws.trans ?_⟩
    rw [List.length_cons, mul_add, mul_one, add_comm (pipeDraws * _), ← add_assoc]
    rfl

end Sys2Proof.Machine
end

section
/-! Numbers come from numbers (R6): where an operation of B32 answers no NaN its operands are none and no
free choice reaches the result, so a computation whose results are numbers is the same whatever is drawn. -/

namespace Sys2Proof.Machine

/-- A result that is no NaN has operands that are none, and is the result at every draw. -/
def NumberFromNumbers (op : Nat → Word → Word → Word) : Prop :=
  ∀ (d : Nat) (a b : Word), F32.isNaN (op d a b) = false →
    F32.isNaN a = false ∧ F32.isNaN b = false ∧ ∀ d', op d' a b = op d a b

/-- `w` stands in for `v`: it is the same pattern unless `v` is a NaN. -/
def SameNumber (v w : Word) : Prop := F32.isNaN v = false → v = w

theorem SameNumber.refl (v : Word) : SameNumber v v := fun _ => rfl

theorem NumberFromNumbers.congr {op : Nat → Word → Word → Word} (hop : NumberFromNumbers op) {d d' : Nat}
    {a a' b b' : Word} (ha : SameNumber a a') (hb : SameNumber b b') :
    SameNumber (op d a b) (op d' a' b') := by
  intro h
  obtain ⟨hna, hnb, hdraw⟩ := hop d a b h
  exact ha hna ▸ hb hnb ▸ (hdraw d').symm

section b32

variable (P : Params)

theorem numberFromNumbers_of_takesNaN {f : Word → Word → Word → Word} {invalid : Word → Word → Prop}
    (hf : ∀ a b, F32.TakesNaNExactlyWhen (fun nan => f nan a b) (invalid a b))
    (hinvalid : ∀ a b, F32.isNaN a = true ∨ F32.isNaN b = true → invalid a b) :
    NumberFromNumbers fun d => f (nanDraw P d) := by
  intro d a b h
  have hdraw : F32.isNaN (nanDraw P d) = true := F32.isNaN_nanOf _
  have hvalid : ¬invalid a b := fun hi => by
    rw [((hf a b).isNaN_iff hdraw).2 hi] at h
    cases h
  have hnumbers := mt (hinvalid a b) hvalid
  rw [not_or, Bool.not_eq_true, Bool.not_eq_true] at hnumbers
  exact ⟨hnumbers.1, hnumbers.2, fun d' => (hf a b).eq_of_not_isNaN hdraw h⟩

theorem fadd_numberFromNumbers : NumberFromNumbers (b32 P).fadd :=
  numberFromNumbers_of_takesNaN P F32.add_takesNaN fun _ _ h => h.imp_right .inl

theorem fmul_numberFromNumbers : NumberFromNumbers (b32 P).fmul :=
  numberFromNumbers_of_takesNaN P F32.mul_takesNaN fun _ _ h => h.imp_right .inl

theorem fsub_numberFromNumbers : NumberFromNumbers (b32 P).fsub :=
  numberFromNumbers_of_takesNaN P (fun a b => F32.add_takesNaN a (F32.neg b))
    fun _ b h => h.imp_right fun hb => .inl ((F32.isNaN_neg b).trans hb)

variable {P} {d d' : Nat}

theorem fadd_sameNumber {a a' b b' : Word} (ha : SameNumber a a') (hb : SameNumber b b') :
    SameNumber ((b32 P).fadd d a b) ((b32 P).fadd d' a' b') := (fadd_numberFromNumbers P).congr ha hb

theorem fsub_sameNumber {a a' b b' : Word} (ha : SameNumber a a') (hb : SameNumber b b') :
    SameNumber ((b32 P).fsub d a b) ((b32 P).fsub d' a' b') := (fsub_numberFromNumbers P).congr ha hb

theorem fmul_sameNumber {a a' b b' : Word} (ha : SameNumber a a') (hb : SameNumber b b') :
    SameNumber ((b32 P).fmul d a b) ((b32 P).fmul d' a' b') := (fmul_numberFromNumbers P).congr ha hb

/-! ### The product of stage 2 and the recurrence of stage 4 -/

theorem cmul_sameNumber (x y : Cpx Word) :
    SameNumber ((b32 P).cmul d x y).re ((b32 P).cmul d' x y).re ∧
    SameNumber ((b32 P).cmul d x y).im ((b32 P).cmul d' x y).im :=
  ⟨fsub_sameNumber (fmul_sameNumber (.refl _) (.refl _)) (fmul_sameNumber (.refl _) (.refl _)),
    fadd_sameNumber (fmul_sameNumber (.refl _) (.refl _)) (fmul_sameNumber (.refl _) (.refl _))⟩

theorem filterOut_sameNumber {r : Regs Word} {x x' : Cpx Word} (hre : SameNumber x.re x'.re)
    (him : SameNumber x.im x'.im) :
    SameNumber (filterOut (b32 P) d r x).re (filterOut (b32 P) d' r x').re ∧
    SameNumber (filterOut (b32 P) d r x).im (filterOut (b32 P) d' r x').im :=
  have hom := fsub_sameNumber (P := P) (d := d) (d' := d') (.refl (b32 P).one) (.refl r.alphaFilter)
  ⟨fadd_sameNumber (fmul_sameNumber (.refl _) hre) (fmul_sameNumber hom (.refl _)),
    fadd_sameNumber (fmul_sameNumber (.refl _) him) (fmul_sameNumber hom (.refl _))⟩

/-- An output of the filter that is no NaN has an input that is none. -/
theorem isNaN_of_filterOut {r : Regs Word} {x : Cpx Word}
    (hre : F32.isNaN (filterOut (b32 P) d r x).re = false)
    (him : F32.isNaN (filterOut (b32 P) d r x).im = false) :
    F32.isNaN x.re = false ∧ F32.isNaN x.im = false := by
  obtain ⟨hre, -, -⟩ := fadd_numberFromNumbers P _ _ _ hre
  obtain ⟨him, -, -⟩ := fadd_numberFromNumbers P _ _ _ him
  obtain ⟨-, hre, -⟩ := fmul_numberFromNumbers P _ _ _ hre
  obtain ⟨-, him, -⟩ := fmul_numberFromNumbers P _ _ _ him
  exact ⟨hre, him⟩

end b32

/-! ### Hand sequencing -/

theorem cpx_ext {α : Type} {x y : Cpx α} (hre : x.re = y.re) (him : x.im = y.im) : x = y := by
  cases x; cases y; congr

/-- The pipeline as a host runs it by hand (R134), the core's four commands that draw numbered from `d` and
the host's product and two gains from `d1`, `d2` and `d3`: the registers left and the host's product. -/
def handPipe {α : Type} (N : Numerics α) (d d1 d2 d3 : Nat) (r : Regs α) (x : Cpx α) : Regs α × Cpx α :=
  let r1 := stepPhase N d r
  let rot := N.cmul d1 x (sinCos N r1)
  let y := filterOut N (d + 1) r1 rot
  let e := detectPhase N y
  let r5 := adjustPhase N (d + 8) (r1.setAcc y) (N.fmul d2 r.alphaLoop e)
  (adjustFreq N (d + 9) r5 (N.fmul d3 r.betaLoop e), rot)

section handPipe

variable {P : Params} {d d1 d2 d3 : Nat} {r : Regs Word} {x : Cpx Word}

/-- R134: a sample that leaves no NaN is what the hand-sequenced commands come to. -/
theorem pipe_eq_handPipe (hphase : F32.isNaN (pipe (b32 P) d r x).1.phase = false)
    (hfreq : F32.isNaN (pipe (b32 P) d r x).1.freq = false)
    (hre : F32.isNaN (pipe (b32 P) d r x).1.acc.re = false)
    (him : F32.isNaN (pipe (b32 P) d r x).1.acc.im = false) :
    pipe (b32 P) d r x = handPipe (b32 P) d d1 d2 d3 r x := by
  have hprod := cmul_sameNumber (P := P) (d := d + 1) (d' := d1) x (sinCos (b32 P) (stepPhase (b32 P) d r))
  have hfilter := filterOut_sameNumber (P := P) (d := d + 7) (d' := d + 1) (r := stepPhase (b32 P) d r)
    hprod.1 hprod.2
  have hrot := isNaN_of_filterOut (P := P) (d := d + 7) (r := stepPhase (b32 P) d r) hre him
  have hout : (pipe (b32 P) d r x).2 = (handPipe (b32 P) d d1 d2 d3 r x).2 :=
    cpx_ext (hprod.1 hrot.1) (hprod.2 hrot.2)
  have hacc : (pipe (b32 P) d r x).1.acc = (handPipe (b32 P) d d1 d2 d3 r x).1.acc :=
    cpx_ext (hfilter.1 hre) (hfilter.2 him)
  refine Prod.ext ?_ hout
  rw [pipe_regs] at hphase hfreq ⊢
  rw [fadd_sameNumber (d' := d + 8) (.refl _) (fmul_sameNumber (d' := d2) (.refl _) (.refl _)) hphase,
    fadd_sameNumber (d' := d + 9) (.refl _) (fmul_sameNumber (d' := d3) (.refl _) (.refl _)) hfreq, hacc]
  rfl

end handPipe

/-! ### The commands in `RUNNING`, at any parameters -/

section commands

variable {P : Params} {s : State} (h : s.running = true)
include h

theorem stepCmd_of_running : stepCmd P s =
    .next (okAnswer 0 0 ((s.setRegs (stepPhase (b32 P) s.draws s.regs)).addDraws 1)) := whenRunning_of h _

theorem sincosCmd_of_running : sincosCmd P s =
    .next (okAnswer (sinCos (b32 P) s.regs).re (sinCos (b32 P) s.regs).im s) := whenRunning_of h _

theorem filterCmd_of_running : filterCmd P s =
    .next (okAnswer (filterOut (b32 P) s.draws s.regs (opAB s)).re
      (filterOut (b32 P) s.draws s.regs (opAB s)).im
      ((s.setRegs (s.regs.setAcc (filterOut (b32 P) s.draws s.regs (opAB s)))).addDraws 7)) :=
  whenRunning_of h _

theorem detectCmd_of_running : detectCmd P s =
    .next (okAnswer (detectPhase (b32 P) (opAB s)) 0 s) := whenRunning_of h _

theorem adjphaseCmd_of_running : adjphaseCmd P s =
    .next (okAnswer 0 0 ((s.setRegs (adjustPhase (b32 P) s.draws s.regs (opA s))).addDraws 1)) :=
  whenRunning_of h _

theorem adjfreqCmd_of_running : adjfreqCmd P s =
    .next (okAnswer 0 0 ((s.setRegs (adjustFreq (b32 P) s.draws s.regs (opA s))).addDraws 1)) :=
  whenRunning_of h _

end commands

end Sys2Proof.Machine
end

section
/-! The bound on the loop's corrections (R139): rounding is monotone, so a product with a smaller operand is
no larger. -/

namespace Sys2Proof.Machine

namespace F32

section mono

variable {p p' q : Nat} (hq : 0 < q) (h : p ≤ p')
include h

theorem RoundsUp.mono (hfloor : floorMag p q = floorMag p' q) (hup : RoundsUp p q) : RoundsUp p' q := by
  have hle : 2 * p ≤ 2 * p' := Nat.mul_le_mul_left 2 h
  rw [RoundsUp, hfloor] at hup
  obtain hlt | ⟨hmid, hodd⟩ := hup
  · exact .inl (hlt.trans_le hle)
  · exact (hmid.trans_le hle).lt_or_eq.imp_right fun heq => ⟨heq, hodd⟩

include hq

theorem floorMag_mono : floorMag p q ≤ floorMag p' q := by
  have hlt := ((magUnits_floorMag_le p q).trans h).trans_lt (lt_magUnits_floorMag_succ p' hq)
  exact Nat.le_of_lt_succ (magUnits_strictMono.lt_iff_lt.1 (Nat.lt_of_mul_lt_mul_right hlt))

theorem roundRatio_mono : roundRatio p q ≤ roundRatio p' q := by
  have hfloor := floorMag_mono hq h
  obtain ⟨m, m', hle, hr, hr'⟩ : ∃ m m', m ≤ m' ∧ roundRatio p q = min m infMag ∧
      roundRatio p' q = min m' infMag := by
    rcases roundRatio_eq p q with ⟨hup, hr⟩ | ⟨-, hr⟩
    · rcases roundRatio_eq p' q with ⟨-, hr'⟩ | ⟨hdown, hr'⟩
      · exact ⟨_, _, Nat.succ_le_succ hfloor, hr, hr'⟩
      · exact ⟨_, _, hfloor.lt_of_ne fun heq => hdown (hup.mono h heq), hr, hr'⟩
    · rcases roundRatio_eq p' q with ⟨-, hr'⟩ | ⟨-, hr'⟩
      · exact ⟨_, _, hfloor.trans (Nat.le_succ _), hr, hr'⟩
      · exact ⟨_, _, hfloor, hr, hr'⟩
  rw [hr, hr']
  exact min_le_min_right _ hle

end mono

theorem units_le_of_magField_le {b c : Word} (h : magField b ≤ magField c) : units b ≤ units c := by
  rw [units_eq_magUnits, units_eq_magUnits]
  exact magUnits_strictMono.monotone h

theorem magField_mul (nan : Word) {a b : Word} (ha : isFinite a = true) (hb : isFinite b = true) :
    magField (mul nan a b) = roundRatio (units a * units b) (2 ^ 149) := by
  rw [mul_of_isFinite nan ha hb, magField_pack _ ((roundRatio_le ..).trans_lt (by decide))]

/-- The magnitude of a product grows with that of its second operand. -/
theorem magField_mul_mono (nan : Word) {a b c : Word} (ha : isFinite a = true) (hc : isFinite c = true)
    (h : magField b ≤ magField c) : magField (mul nan a b) ≤ magField (mul nan a c) := by
  have hb : isFinite b = true := (isFinite_iff b).2 (h.trans_lt ((isFinite_iff c).1 hc))
  rw [magField_mul nan ha hb, magField_mul nan ha hc]
  exact roundRatio_mono (Nat.two_pow_pos 149) (Nat.mul_le_mul_left _ (units_le_of_magField_le h))

end F32

/-- A number within the bounds is no larger in magnitude than the bound. -/
theorem Saturated.magField_le {x : Word} (h : Saturated Config.halfPi x) :
    F32.magField x ≤ F32.magField Config.halfPi := by
  obtain ⟨hx, hupper, hlower⟩ := h
  have hL : F32.isNaN Config.halfPi = false := by decide
  have hnegL : F32.isNaN (F32.neg Config.halfPi) = false := by decide
  have hkey : F32.key Config.halfPi = F32.magField Config.halfPi := by decide
  have hkeyneg : F32.key (F32.neg Config.halfPi) = -(F32.magField Config.halfPi : Int) := by decide
  rw [F32.gt, ← Bool.not_eq_true, F32.lt_iff_key_lt_key hL hx, hkey] at hupper
  rw [← Bool.not_eq_true, F32.lt_iff_key_lt_key hx hnegL, hkeyneg] at hlower
  rw [F32.key] at hupper hlower
  cases hs : F32.sign x with
  | false =>
    rw [hs, if_neg Bool.false_ne_true] at hupper
    omega
  | true =>
    rw [hs, if_pos rfl] at hlower
    omega

theorem clamp_of_isNaN {P : Params} {L x : Word} (h : F32.isNaN x = true) : clamp (b32 P) L x = x := by
  refine clamp_of_inside ?_ ?_ <;> simp [b32, F32.gt, F32.lt, h]

/-- R121, R139: an error that is no NaN is within the limit. -/
theorem magField_detectPhase_le {P : Params} {z : Cpx Word} (h : F32.isNaN (detectPhase (b32 P) z) = false) :
    F32.magField (detectPhase (b32 P) z) ≤ F32.magField Config.halfPi := by
  have hx : F32.isNaN (atan2Of P z.im z.re) = false := by
    by_contra hnan
    rw [Bool.not_eq_false] at hnan
    exact Bool.eq_false_iff.1 h ((congrArg F32.isNaN (clamp_of_isNaN hnan)).trans hnan)
  exact (saturated_clamp (P := P) saturated_halfPi saturated_neg_halfPi hx).magField_le

/-- A correction is no larger than the gain's product with the limit. -/
theorem magField_fmul_le {P : Params} {d : Nat} {gain e : Word} (hgain : F32.isFinite gain = true)
    (he : F32.magField e ≤ F32.magField Config.halfPi) : F32.magField ((b32 P).fmul d gain e) ≤
      F32.roundRatio (F32.units gain * F32.units Config.halfPi) (2 ^ 149) :=
  (F32.magField_mul_mono _ hgain (by decide) he).trans_eq (F32.magField_mul _ hgain (by decide))

end Sys2Proof.Machine
end

section
/-! The pipeline in REF (R136, R138): stage 2 turns the sample by a quarter ahead of minus the phase, and at
the lock point the loop has nothing to correct. -/

namespace Sys2Proof.Machine

section ref

variable {z : ℝ} {d : Nat} {r : Regs ℝ} {x : Cpx ℝ}

theorem pipe_output_ref : (pipe (ref z) d r x).2 =
    ⟨x.re * Real.sin (r.phase + r.freq) - x.im * Real.cos (r.phase + r.freq),
      x.re * Real.cos (r.phase + r.freq) + x.im * Real.sin (r.phase + r.freq)⟩ := rfl

/-- A turn by `-phi`, in its two parts. -/
theorem exp_neg_I_mul (phi : ℝ) :
    Complex.exp (-(Complex.I * (phi : ℂ))) = ⟨Real.cos phi, -Real.sin phi⟩ :=
  Complex.ext (by simp [Complex.exp_re]) (by simp [Complex.exp_im])

theorem pipe_acc_ref : (pipe (ref z) d r x).1.acc =
    ⟨r.alphaFilter * (pipe (ref z) d r x).2.re + (1 - r.alphaFilter) * r.accRe,
      r.alphaFilter * (pipe (ref z) d r x).2.im + (1 - r.alphaFilter) * r.accIm⟩ := rfl

theorem pipe_regs_ref : (pipe (ref z) d r x).1 =
    ((r.setAcc (pipe (ref z) d r x).1.acc).setPhase (r.phase + r.freq +
      r.alphaLoop * detectPhase (ref z) (pipe (ref z) d r x).1.acc)).setFreq
      (r.freq + r.betaLoop * detectPhase (ref z) (pipe (ref z) d r x).1.acc) := rfl

/-- The detector sees no error on the positive real axis. -/
theorem detectPhase_ref_ofPos {A : ℝ} (hA : 0 < A) : detectPhase (ref z) ⟨A, 0⟩ = 0 := by
  have harg : (ref z).atan2 0 A = 0 := by
    show (if (0 : ℝ) = 0 ∧ A = 0 then z else Complex.arg ⟨A, 0⟩) = 0
    rw [if_neg fun h => hA.ne' h.2]
    exact Complex.arg_ofReal_of_nonneg hA.le
  have hpi := Real.pi_pos
  rw [detectPhase, harg]
  refine clamp_of_inside (decide_eq_false ?_) (decide_eq_false ?_)
  · exact not_lt.2 (div_pos hpi two_pos).le
  · exact not_lt.2 (neg_nonpos.2 (div_pos hpi two_pos).le)

/-- At a quarter turn ahead of the input's angle the product of stage 2 is the input's modulus. -/
theorem pipe_output_ref_locked {A theta : ℝ} (hphase : r.phase + r.freq = theta + Real.pi / 2) :
    (pipe (ref z) d r ⟨A * Real.cos theta, A * Real.sin theta⟩).2 = ⟨A, 0⟩ := by
  rw [pipe_output_ref, hphase, Real.sin_add_pi_div_two, Real.cos_add_pi_div_two, Cpx.mk.injEq]
  constructor
  · linear_combination A * Real.cos_sq_add_sin_sq theta
  · ring

end ref

end Sys2Proof.Machine
end

section
/-! The first sample after construction (R137): a zero offset and a zero phase leave the phase at zero after
stage 1. -/

namespace Sys2Proof.Machine

theorem F32.roundRatio_zero (q : Nat) : F32.roundRatio 0 q = 0 := by simp [F32.roundRatio]

/-- A zero over a positive datum, an infinity included, is the zero. -/
theorem F32.div_zero_of_pos (nan : Word) {w : Word} (h : F32.gt w Config.zero = true) :
    F32.div nan Config.zero w = Config.zero := by
  obtain ⟨-, hw, hkey⟩ := F32.lt_eq_true_iff.1 h
  have hzero : F32.key Config.zero = 0 := by decide
  rw [hzero, F32.key] at hkey
  have hsign : F32.sign w = false := Bool.eq_false_iff.2 fun hs => by
    rw [hs, if_pos rfl] at hkey
    omega
  have hpos : F32.isZero w = false := Bool.eq_false_iff.2 fun hz => by
    rw [hsign, (F32.isZero_iff w).1 hz] at hkey
    exact absurd hkey (by decide)
  have hpack : F32.pack (F32.sign Config.zero ^^ F32.sign w) 0 = Config.zero := by rw [hsign]; decide
  cases hi : F32.isInf w with
  | true => rw [F32.div_of_isInf_right nan (by decide) (by decide) hi, hpack]
  | false =>
    have hunits : F32.units Config.zero = 0 := by decide
    rw [F32.div_of_isFinite nan (by decide) (F32.isFinite_of_not hw hi) hpos, hunits, Nat.zero_mul,
      F32.roundRatio_zero, hpack]

section b32

variable {P : Params} {d : Nat} {a b c : Word}

/-- A number that an operation answers beside one NaN is its answer beside every draw. -/
theorem F32.TakesNaNExactlyWhen.eq_draw {op : Word → Word} {invalid : Prop}
    (hop : F32.TakesNaNExactlyWhen op invalid) (h : op 0x7FC00000#32 = c) (hc : F32.isNaN c = false) :
    op (nanDraw P d) = c :=
  (hop.eq_of_not_isNaN (by decide) (h ▸ hc)).trans h

theorem fmul_eq_of (h : F32.mul 0x7FC00000#32 a b = c) (hc : F32.isNaN c = false) :
    (b32 P).fmul d a b = c := (F32.mul_takesNaN a b).eq_draw h hc

theorem fadd_eq_of (h : F32.add 0x7FC00000#32 a b = c) (hc : F32.isNaN c = false) :
    (b32 P).fadd d a b = c := (F32.add_takesNaN a b).eq_draw h hc

theorem fsub_eq_of (h : F32.sub 0x7FC00000#32 a b = c) (hc : F32.isNaN c = false) :
    (b32 P).fsub d a b = c := (F32.add_takesNaN a (F32.neg b)).eq_draw h hc

/-- A zero offset is a zero frequency at every positive rate (R153). -/
theorem radiansPerSample_zero {rate offset : Word} (hrate : (b32 P).fgt rate Config.zero = true)
    (hoffset : offset = Config.zero) : radiansPerSample (b32 P) d rate offset = Config.zero := by
  have hratio : (b32 P).fdiv d offset rate = Config.zero := hoffset ▸ F32.div_zero_of_pos _ hrate
  rw [radiansPerSample, hratio]
  exact fmul_eq_of (b := Config.twoPi) (by decide) (by decide)

theorem fadd_zero_zero : (b32 P).fadd d Config.zero Config.zero = Config.zero :=
  fadd_eq_of (by decide) (by decide)

/-- `(1, 0)` turned by a quarter. -/
theorem cmul_one_quarterTurn :
    (b32 P).cmul d ⟨Config.one, Config.zero⟩ ⟨Config.zero, Config.one⟩ = ⟨Config.zero, Config.one⟩ := by
  have honezero (d : Nat) : (b32 P).fmul d Config.one Config.zero = Config.zero :=
    fmul_eq_of (by decide) (by decide)
  have hzeroone (d : Nat) : (b32 P).fmul d Config.zero Config.one = Config.zero :=
    fmul_eq_of (by decide) (by decide)
  have honeone (d : Nat) : (b32 P).fmul d Config.one Config.one = Config.one :=
    fmul_eq_of (by decide) (by decide)
  have hzerozero (d : Nat) : (b32 P).fmul d Config.zero Config.zero = Config.zero :=
    fmul_eq_of (by decide) (by decide)
  rw [Numerics.cmul, honezero, hzeroone, honeone, hzerozero, Cpx.mk.injEq]
  exact ⟨fsub_eq_of (by decide) (by decide), fadd_eq_of (by decide) (by decide)⟩

/-- R137: from a loop at rest at phase zero, `(1, 0)` in gives `(0, 1)` out. -/
theorem pipe_output_atRest {r : Regs Word} (hexact : ExactAtZero P) (hphase : r.phase = Config.zero)
    (hfreq : r.freq = Config.zero) :
    (pipe (b32 P) d r ⟨Config.one, Config.zero⟩).2 = ⟨Config.zero, Config.one⟩ := by
  obtain ⟨hsin, hcos⟩ := hexact
  have hturn : sinCos (b32 P) (stepPhase (b32 P) d r) = ⟨Config.zero, Config.one⟩ := by
    rw [sinCos, stepPhase, Regs.setPhase_phase, hphase, hfreq, fadd_zero_zero, Cpx.mk.injEq]
    exact ⟨hsin, hcos⟩
  rw [pipe_output, hturn, cmul_one_quarterTurn]

end b32

/-- An admitted `CONFIG` whose check passes (R153). -/
theorem configCmd_of_valid {P : Params} {s : State} (h : s.running = false)
    (hvalid : configValid (b32 P) s.regs (opA s) = true) : configCmd P s = .next (okAnswer 0 0
      (((s.setRegs (configure (b32 P) s.draws s.regs (opA s) (opB s) (opC s))).setStatus
        (withRun s.status)).addDraws 5)) := by
  rw [configCmd, whenUnconfigured_of h, if_pos hvalid]
  rfl

end Sys2Proof.Machine
end

section
/-! The statements about the loop controller (R130 to R139). -/

namespace Sys2Proof.Proofs.LoopController

open Sys2Proof.Machine

/-- Settles O36: the batch loop is the pipeline over the stream, its outputs written in order. -/
theorem processRunsThePipelineOverTheBatch : Obligations.ProcessRunsThePipelineOverTheBatch := by
  intro s n xs hrun hfits hlen hxs
  have hys : (pipeAll hw s.draws s.regs xs).2.length = n.toNat := (length_pipeAll ..).trans hlen
  refine ⟨s.obuf.writeSamples 0 (pipeAll hw s.draws s.regs xs).2, ?_, batchDone_emitted xs s, hys,
    fun a ha => Memory.getByte_writeSamples_outside (.inr ?_)⟩
  · rw [exec_process_of_holds hrun hfits hlen hxs, ← hlen]
    rfl
  · rwa [Nat.zero_add, hys]

/-- Settles O38: one batch, single samples and a batch cut in two are the pipeline over the same stream. -/
theorem batchingDoesNotChangeTheOutputs : Obligations.BatchingDoesNotChangeTheOutputs := by
  intro s n xs hrun hfits hlen hxs
  refine ⟨_, _, exec_process_of_holds hrun hfits hlen hxs, (length_pipeAll ..).trans hlen,
    batchDone_emitted xs s, sampleRun_of_running hrun, ?_⟩
  intro n1 n2 s1 hsum hrun1 hregs1 hdraws1 hxs1
  obtain ⟨as, bs, rfl, has⟩ : ∃ as bs, xs = as ++ bs ∧ as.length = n1.toNat :=
    ⟨xs.take n1.toNat, xs.drop n1.toNat, (List.take_append_drop ..).symm, by rw [List.length_take]; omega⟩
  have hbs : bs.length = n2.toNat := by rw [List.length_append] at hlen; omega
  have hys := (length_pipeAll hw s1.draws s1.regs as).trans has
  rw [List.take_left' has] at hxs1
  rw [List.drop_left' has, ← hregs1, ← hdraws1, pipeAll_append, List.take_left' hys, List.drop_left' hys]
  refine ⟨_, exec_process_of_holds hrun1 (by omega) has hxs1, batchDone_emitted as s1, ?_⟩
  intro s2 hrun2 hregs2 hdraws2 hxs2
  have hrest : pipeAll hw s2.draws s2.regs bs =
      pipeAll hw (s1.draws + pipeDraws * as.length) (pipeAll hw s1.draws s1.regs as).1 bs := by
    rw [hregs2, hdraws2]
    rfl
  rw [← hrest]
  refine ⟨_, exec_process_of_holds hrun2 (by omega) hbs hxs2, ?_, ?_, batchDone_emitted bs s2⟩
  · show (pipeAll hw s2.draws s2.regs bs).1 = (pipeAll hw s.draws s.regs (as ++ bs)).1
    rw [hrest, ← hregs1, ← hdraws1, pipeAll_append]
  · show s2.draws + pipeDraws * bs.length = s.draws + pipeDraws * (as ++ bs).length
    rw [hdraws2, ← hdraws1, List.length_append, mul_add, ← add_assoc]
    rfl

/-- Settles O39: the seven moves come to the hand-sequenced pipeline, and where the sample is all numbers
that is the pipeline. -/
theorem handSequencingAgreesWithSample : Obligations.HandSequencingAgreesWithSample := by
  intro P s a b d1 d2 d3 hrun
  refine ⟨_, _, _, _, _, _, _, _, _, _, _, _, stepCmd_of_running hrun, sincosCmd_of_running hrun, rfl,
    filterCmd_of_running hrun, rfl, detectCmd_of_running hrun, rfl, adjphaseCmd_of_running hrun,
    adjfreqCmd_of_running hrun, sampleCmd_of_running hrun, fun hphase hfreq hre him => ?_⟩
  have hpipe := pipe_eq_handPipe (d1 := d1) (d2 := d2) (d3 := d3) hphase hfreq hre him
  rw [sampleAnswer, hpipe]
  -- Over an arbitrary numerics record the two sides are compared without unfolding any operation.
  generalize b32 P = N
  exact ⟨rfl, rfl⟩

/-- Settles O40: the product of stage 2 is formed of the operands and the stepped phase. -/
theorem outputIgnoresTheFeedbackState : Obligations.OutputIgnoresTheFeedbackState := by
  intro s1 s2 hrun1 hrun2 hphase hfreq ha hb hdraws
  refine ⟨_, _, sampleCmd_of_running hrun1, sampleCmd_of_running hrun2, ?_⟩
  have hout : (pipe hw s1.draws s1.regs (opAB s1)).2 = (pipe hw s2.draws s2.regs (opAB s2)).2 := by
    simp only [pipe_output, sinCos, stepPhase, Regs.setPhase_phase, opAB, opA, opB, hphase, hfreq, ha, hb,
      hdraws]
  rw [sampleAnswer_response hout, sampleAnswer_response rfl]

/-- Settles O41: the product of stage 2, part by part. -/
theorem outputIsTheInputRotatedInRef : Obligations.OutputIsTheInputRotatedInRef := by
  intro z d r x
  rw [pipe_output_ref, exp_neg_I_mul]
  apply Complex.ext <;> simp only [Complex.mul_re, Complex.mul_im, Complex.I_re, Complex.I_im] <;> ring

/-- Settles O42: the zero offset gives a zero frequency, the phase stays at zero, and its sine and cosine are
the exact points. -/
theorem firstSampleIsAQuarterTurn : Obligations.FirstSampleIsAQuarterTurn := by
  refine ⟨fun P s hexact hunconfigured hrate htime hoffset hphase => ?_,
    fun P s hrun => ⟨_, sampleCmd_of_running hrun, rfl⟩⟩
  have hvalid : configValid (b32 P) s.regs (opA s) = true := Bool.and_eq_true_iff.2 ⟨hrate, htime⟩
  refine ⟨_, _, configCmd_of_valid hunconfigured hvalid, sampleCmd_of_running (withRun_running _), ?_⟩
  exact sampleAnswer_response (y := ⟨Config.zero, Config.one⟩)
    (pipe_output_atRest hexact hphase (radiansPerSample_zero hrate hoffset))

/-- Settles O43: the output is the accumulator, so the filter keeps it, and it lies where the error is 0. -/
theorem lockIsAFixedPointInRef : Obligations.LockIsAFixedPointInRef := by
  intro z A theta d r hA hphase hre him
  have hout := pipe_output_ref_locked (z := z) (d := d) (A := A) hphase
  have hacc : (pipe (ref z) d r ⟨A * Real.cos theta, A * Real.sin theta⟩).1.acc = ⟨A, 0⟩ := by
    rw [pipe_acc_ref, hout, hre, him, Cpx.mk.injEq]
    constructor <;> ring
  refine Prod.ext ?_ hout
  rw [pipe_regs_ref, hacc, detectPhase_ref_ofPos hA, hphase, mul_zero, mul_zero, add_zero, add_zero]
  obtain ⟨⟩ := r
  cases hre; cases him
  rfl

/-- Settles O44: the error is within the limit and rounding is monotone, so the bounds are the gains' products
with the limit. -/
theorem feedbackOfOneSampleIsBounded : Obligations.FeedbackOfOneSampleIsBounded := by
  intro P d r x t e
  refine ⟨rfl, rfl, rfl, rfl, fun halpha hbeta he =>
    ⟨(b32 P).fmul (d + 14) r.alphaLoop e, (b32 P).fmul (d + 16) r.betaLoop e, rfl, rfl, rfl, rfl, ?_, ?_⟩⟩
  · rw [halpha]
    exact (magField_fmul_le (by decide) (magField_detectPhase_le he)).trans (by decide)
  · rw [hbeta]
    exact (magField_fmul_le (by decide) (magField_detectPhase_le he)).trans (by decide)

/-- Settles O12: the length is tested before the batch loop begins. -/
theorem batchLongerThanBuffersRaisesBadLength : Obligations.BatchLongerThanBuffersRaisesBadLength := by
  refine ⟨fun P n s hrun hlong => ?_, exec_process⟩
  rw [processCmd, whenRunning_of hrun, batchLength, if_pos hlong]
  rfl

/-- Settles O35: the pipeline's output, accumulator and error are the stages written out. -/
theorem sampleRunsTheSixStages : Obligations.SampleRunsTheSixStages := by
  refine ⟨by decide, fun s => ⟨fun h => ?_, sampleCmd_of_not_running⟩⟩
  intro d r a b ph sn cs outRe outIm om fRe fIm x e
  have hout : (pipe hw s.draws s.regs (opAB s)).2 = ⟨outRe, outIm⟩ := rfl
  have hacc : (pipe hw s.draws s.regs (opAB s)).1.acc = ⟨fRe, fIm⟩ := by rw [pipe_acc, hout]; rfl
  have herror : detectPhase hw ⟨fRe, fIm⟩ = e := rfl
  rw [exec_sample, sampleCmd_of_running h, sampleAnswer, pipe_regs, hout, hacc, herror]
  rfl

end Sys2Proof.Proofs.LoopController
end

section
/-! Construction and access (R150 to R154): each command as one equation per case of its checks. -/

namespace Sys2Proof.Machine

variable {s : State}

theorem exec_nop (s : State) : exec .nop s = .next (okAnswer 0#32 0#32 s) := rfl

theorem exec_reset (s : State) :
    exec .reset s = .next (okAnswer 0#32 0#32 ((s.setRegs Regs.reset).setStatus 0#32)) := rfl

theorem exec_get (r : Reg) (s : State) : exec (.get r) s = .next (okAnswer (readReg s r) 0#32 s) := rfl

/-! ### `SETCFG` -/

theorem isField_iff {f : Reg} : f.isField = true ↔ f = .alphaLoop ∨ f = .betaLoop ∨ f = .timeConstant := by
  cases f <;> simp [Reg.isField]

theorem exec_setcfg_of_field {f : Reg} (hf : f.isField = true) (s : State) : exec (.setcfg f) s =
    whenUnconfigured s
      (respond 0#32 0#32 ((s.setRegs (setField hw s.draws s.regs f s.operands.a)).addDraws 2)) := if_pos hf

theorem exec_setcfg_of_not_field {f : Reg} (hf : ¬f.isField = true) (s : State) :
    exec (.setcfg f) s = raise .illegalCommand s := if_neg hf

/-- An admitted `SETCFG` (R152). -/
theorem exec_setcfg_of_unconfigured {f : Reg} (hf : f.isField = true) (h : s.running = false) :
    exec (.setcfg f) s = .next (okAnswer 0#32 0#32
      ((s.setRegs (setField hw s.draws s.regs f s.operands.a)).addDraws 2)) := by
  rw [exec_setcfg_of_field hf, whenUnconfigured_of h, respond_eq]

/-! ### `CONFIG` -/

theorem exec_config (s : State) : exec .config s = configCmd Config.params s := rfl

theorem configValid_iff {α : Type} {N : Numerics α} {r : Regs α} {rate : α} : configValid N r rate = true ↔
    N.fgt rate N.zero = true ∧ N.fgt r.timeConstant N.zero = true := Bool.and_eq_true_iff

theorem configCmd_of_invalid {P : Params} (h : s.running = false)
    (hinvalid : ¬configValid (b32 P) s.regs (opA s) = true) :
    configCmd P s = raise .invalidConfiguration s := by
  rw [configCmd, whenUnconfigured_of h, if_neg hinvalid]

theorem configCmd_of_running {P : Params} (h : s.running = true) : configCmd P s = raise .wrongState s :=
  whenUnconfigured_not h _

end Sys2Proof.Machine
end

section
/-! The signs and bounds that the smoothing coefficient meets on its way (R153, R155): a positive product,
possibly underflowed or infinite, a reciprocal of it, an exponential from 0 to 1, and 1 minus that. -/

namespace Sys2Proof.Machine

/-! ### In REF -/

theorem alphaFilterOf_ref (z : ℝ) (d : Nat) (rate tc : ℝ) :
    alphaFilterOf (ref z) d rate tc = 1 - Real.exp (-(1 / (rate * tc))) := rfl

namespace F32

/-! ### Data with a plus sign -/

/-- A datum with a clear sign bit that is no NaN: `+0`, a positive number or `+inf`. -/
def PlusSigned (w : Word) : Prop := sign w = false ∧ isNaN w = false

theorem plusSigned_pack {m : Nat} (h : m ≤ infMag) : PlusSigned (pack false m) :=
  ⟨sign_pack .., isNaN_pack _ h⟩

theorem plusSigned_iff_toNat_le {w : Word} : PlusSigned w ↔ w.toNat ≤ infMag := by
  have hlt : infMag < 2 ^ 31 := by decide
  rw [PlusSigned, isNaN_eq_false_iff, toNat_eq_sign_magField]
  cases sign w with
  | false => simp
  | true =>
    exact iff_of_false (fun h => nomatch h.1) (by rw [Bool.toNat_true]; omega)

theorem PlusSigned.magField_eq_toNat {w : Word} (h : PlusSigned w) : magField w = w.toNat := by
  rw [toNat_eq_sign_magField, h.1, Bool.toNat_false, Nat.zero_mul, Nat.zero_add]

theorem key_of_sign_eq_false {w : Word} (h : sign w = false) : key w = magField w := by
  rw [key, h, if_neg Bool.false_ne_true]

theorem key_of_sign_eq_true {w : Word} (h : sign w = true) : key w = -magField w := by
  rw [key, h, if_pos rfl]

theorem natAbs_key (w : Word) : (key w).natAbs = magField w := by
  rw [key]
  split <;> simp

theorem key_zero : key Config.zero = 0 := by decide

/-- The test of `CONFIG` (R153): a plus sign, no NaN and no zero. -/
theorem gt_zero_iff {w : Word} : gt w Config.zero = true ↔ PlusSigned w ∧ isZero w = false := by
  have hzero : isNaN Config.zero = false := by decide
  rw [gt, lt_eq_true_iff, key_zero, PlusSigned, ← Bool.not_eq_true (isZero w), isZero_iff]
  cases hs : sign w with
  | false => simp [key_of_sign_eq_false hs, hzero, Nat.pos_iff_ne_zero]
  | true => simp [key_of_sign_eq_true hs]

/-! ### The product and its reciprocal -/

/-- A product of positive data is positive, or `+0` where it underflows. -/
theorem plusSigned_mul (nan : Word) {a b : Word} (ha : gt a Config.zero = true)
    (hb : gt b Config.zero = true) : PlusSigned (mul nan a b) := by
  obtain ⟨⟨hsa, hna⟩, hza⟩ := gt_zero_iff.1 ha
  obtain ⟨⟨hsb, hnb⟩, hzb⟩ := gt_zero_iff.1 hb
  have hsign : (sign a ^^ sign b) = false := by rw [hsa, hsb]; rfl
  by_cases hinf : isInf a = true ∨ isInf b = true
  · rw [mul_of_isInf nan hna hnb (hinf.imp (⟨·, hzb⟩) (⟨·, hza⟩)), hsign]
    exact plusSigned_pack le_rfl
  · rw [not_or, Bool.not_eq_true, Bool.not_eq_true] at hinf
    rw [mul_of_isFinite nan (isFinite_of_not hna hinf.1) (isFinite_of_not hnb hinf.2), hsign]
    exact plusSigned_pack (roundRatio_le ..)

/-- The reciprocal of `+0` is `+inf` and that of `+inf` is `+0`. -/
theorem plusSigned_one_div (nan : Word) {b : Word} (hb : PlusSigned b) :
    PlusSigned (div nan Config.one b) := by
  obtain ⟨hsb, hnb⟩ := hb
  have hone : isFinite Config.one = true := by decide
  have hsign : (sign Config.one ^^ sign b) = false := by rw [hsb]; decide
  cases hi : isInf b with
  | true =>
    rw [div_of_isInf_right nan (isNaN_of_isFinite hone) (isInf_of_isFinite hone) hi, hsign]
    exact plusSigned_pack (Nat.zero_le _)
  | false =>
    have hfin := isFinite_of_not hnb hi
    cases hz : isZero b with
    | true =>
      rw [div_of_isZero nan hone hfin hz (by decide), hsign]
      exact plusSigned_pack le_rfl
    | false =>
      rw [div_of_isFinite nan hone hfin hz, hsign]
      exact plusSigned_pack (roundRatio_le ..)

/-- The argument of the exponential is at most 0, `-0` and `-inf` included (R8). -/
theorem PlusSigned.not_gt_zero_neg {w : Word} (h : PlusSigned w) : gt (neg w) Config.zero = false := by
  rw [← Bool.not_eq_true, gt_zero_iff, PlusSigned, sign_neg, h.1]
  simp

/-! ### The unit interval -/

/-- A number from 0 to 1, both ends and `-0` included (R155). -/
def InUnitInterval (w : Word) : Prop :=
  isNaN w = false ∧ lt w Config.zero = false ∧ gt w Config.one = false

theorem inUnitInterval_iff {w : Word} : InUnitInterval w ↔ 0 ≤ key w ∧ key w ≤ key Config.one := by
  have hone : key Config.one < infMag := by decide
  have hmag := natAbs_key w
  constructor
  · rintro ⟨hnan, hlow, hhigh⟩
    rw [← Bool.not_eq_true, lt_iff_key_lt_key hnan (by decide), key_zero, not_lt] at hlow
    rw [gt, ← Bool.not_eq_true, lt_iff_key_lt_key (by decide) hnan, not_lt] at hhigh
    exact ⟨hlow, hhigh⟩
  · rintro ⟨hlow, hhigh⟩
    have hnan : isNaN w = false := (isNaN_eq_false_iff w).2 (by omega)
    refine ⟨hnan, ?_, ?_⟩
    · rwa [← Bool.not_eq_true, lt_iff_key_lt_key hnan (by decide), key_zero, not_lt]
    · rwa [gt, ← Bool.not_eq_true, lt_iff_key_lt_key (by decide) hnan, not_lt]

theorem inUnitInterval_pack {m : Nat} (h : m ≤ magField Config.one) : InUnitInterval (pack false m) := by
  have hone : magField Config.one < 2 ^ 31 := magField_lt _
  rw [inUnitInterval_iff, key_of_sign_eq_false (sign_pack ..), magField_pack _ (h.trans_lt hone),
    key_of_sign_eq_false (by decide)]
  omega

namespace InUnitInterval

variable {w : Word} (h : InUnitInterval w)
include h

theorem isFinite : isFinite w = true := by
  obtain ⟨hlow, hhigh⟩ := inUnitInterval_iff.1 h
  have hone : key Config.one < infMag := by decide
  have hmag := natAbs_key w
  rw [isFinite_iff]
  omega

theorem value_nonneg : 0 ≤ value w := by
  have hlt := key_lt_key_iff_value_lt_value w Config.zero
  have hzero : value Config.zero = 0 := by decide
  rw [key_zero, hzero] at hlt
  exact not_lt.1 (mt hlt.2 (inUnitInterval_iff.1 h).1.not_gt)

theorem value_le_one : value w ≤ value Config.one :=
  not_lt.1 (mt (key_lt_key_iff_value_lt_value Config.one w).2 (inUnitInterval_iff.1 h).2.not_gt)

/-- The difference from 1 lies between 0 and 1, and rounding is monotone and keeps both. -/
theorem one_sub (nan : Word) : InUnitInterval (sub nan Config.one w) := by
  have hlow := h.value_nonneg
  have hhigh := h.value_le_one
  have hneg : F32.isFinite (neg w) = true := (isFinite_neg w).trans h.isFinite
  rw [sub, add_of_isFinite nan (by decide) hneg, value_neg]
  split
  · rw [show sign Config.one = false from by decide, Bool.false_and]
    exact inUnitInterval_pack (Nat.zero_le _)
  · rw [decide_eq_false (by omega)]
    apply inUnitInterval_pack
    calc roundRatio (value Config.one + -value w).natAbs 1
        ≤ roundRatio (value Config.one).natAbs 1 := roundRatio_mono one_pos (by omega)
      _ = magField Config.one := by decide

end InUnitInterval

end F32

/-! ### In B32 -/

/-- R155 under `P_EXP_RANGE`, whatever the product of rate and time constant rounds to. -/
theorem alphaFilterOf_inUnitInterval {P : Params} (hexp : ExpRange P) (d : Nat) {rate tc : Word}
    (hrate : F32.gt rate Config.zero = true) (htc : F32.gt tc Config.zero = true) :
    F32.InUnitInterval (alphaFilterOf (b32 P) d rate tc) := by
  have hratio : F32.PlusSigned
      (F32.div (nanDraw P (d + 1)) Config.one (F32.mul (nanDraw P d) rate tc)) :=
    F32.plusSigned_one_div _ (F32.plusSigned_mul _ hrate htc)
  have hrange := hexp _ ((F32.isNaN_neg _).trans hratio.2) hratio.not_gt_zero_neg
  exact F32.InUnitInterval.one_sub hrange _

end Sys2Proof.Machine
end

section
/-! The statements about construction and access (R150 to R155). -/

namespace Sys2Proof.Proofs.ConstructionAndAccess

open Sys2Proof.Machine

/-- Settles O19: a plus sign and no NaN are the patterns up to `+inf`, of which only `+0` is a zero. -/
theorem positiveTestAcceptsExactlyPositiveData : Obligations.PositiveTestAcceptsExactlyPositiveData := by
  intro a
  refine (F32.gt_zero_iff (w := a)).trans ?_
  constructor
  · rintro ⟨hplus, hzero⟩
    refine ⟨Nat.pos_of_ne_zero fun h => ?_, F32.plusSigned_iff_toNat_le.1 hplus⟩
    rw [(F32.isZero_iff a).2 (hplus.magField_eq_toNat.trans h)] at hzero
    cases hzero
  · rintro ⟨hpos, hle⟩
    have hplus : F32.PlusSigned a := F32.plusSigned_iff_toNat_le.2 hle
    refine ⟨hplus, Bool.eq_false_iff.2 fun h => ?_⟩
    exact hpos.ne' (hplus.magField_eq_toNat.symm.trans ((F32.isZero_iff a).1 h))

/-- Settles O31: the exponent is negative. -/
theorem alphaFilterIsInsideTheUnitIntervalInRef : Obligations.AlphaFilterIsInsideTheUnitIntervalInRef := by
  intro z d rate tc hrate htc
  have hneg : -(1 / (rate * tc)) < 0 := neg_lt_zero.2 (by positivity)
  rw [alphaFilterOf_ref]
  exact ⟨sub_pos.2 (Real.exp_lt_one_iff.2 hneg), sub_lt_self _ (Real.exp_pos _)⟩

/-- Settles O32. -/
theorem alphaFilterIsInTheUnitIntervalInB32 : Obligations.AlphaFilterIsInTheUnitIntervalInB32 :=
  fun _ d _ _ hexp hrate htc => alphaFilterOf_inUnitInterval hexp d hrate htc

/-- Settles O15. -/
theorem nopChangesNothing : Obligations.NopChangesNothing := ⟨by decide, exec_nop⟩

/-- Settles O16. -/
theorem resetCommandRestoresRegisters : Obligations.ResetCommandRestoresRegisters := ⟨by decide, exec_reset⟩

/-- Settles O17: the field is checked before the lifecycle state. -/
theorem setcfgWritesItsField : Obligations.SetcfgWritesItsField := by
  refine ⟨by decide, by decide, by decide, fun s => ⟨fun h => ?_, fun h f hf => ?_, fun f h1 h2 h3 => ?_⟩⟩
  · exact ⟨exec_setcfg_of_unconfigured rfl h, exec_setcfg_of_unconfigured rfl h,
      exec_setcfg_of_unconfigured rfl h⟩
  · rw [exec_setcfg_of_field (isField_iff.2 hf), whenUnconfigured_not h]
    rfl
  · exact exec_setcfg_of_not_field (fun hf => by simp [isField_iff, h1, h2, h3] at hf) s

/-- Settles O18: the lifecycle state is checked first, then the two inputs. -/
theorem configConstructsTheLoop : Obligations.ConfigConstructsTheLoop := by
  refine ⟨by decide, fun s => ?_⟩
  rw [exec_config]
  exact ⟨fun h hrate htc => configCmd_of_valid h (configValid_iff.2 ⟨hrate, htc⟩),
    fun h hinvalid => configCmd_of_invalid h (mt configValid_iff.1 hinvalid), configCmd_of_running⟩

/-- Settles O20: every register is answered by the one equation of `GET`. -/
theorem getReadsTheRegister : Obligations.GetReadsTheRegister := by
  refine ⟨by decide, fun s => ?_⟩
  exact ⟨exec_get .phase s, exec_get .freq s, exec_get .accRe s, exec_get .accIm s, exec_get .alphaFilter s,
    exec_get .alphaLoop s, exec_get .betaLoop s, exec_get .limit s, exec_get .timeConstant s,
    exec_get .status s⟩

end Sys2Proof.Proofs.ConstructionAndAccess
end

section
/-! Errors and lifecycle (R170 to R179): the codes of R170, which commands each lifecycle state refuses, and
that no other command answers `WrongState`. -/

namespace Sys2Proof.Machine

/-! ### The four errors -/

/-- The flags and codes of R170. -/
theorem Err.flag_code_mem (e : Err) :
    (e.flag, e.code) ∈ [((0x00000002#32 : Word), (0x01#8 : BitVec 8)), (0x00000004#32, 0x02#8),
      (0x00000008#32, 0x03#8), (0x00000010#32, 0x04#8)] := by cases e <;> decide

/-! ### The lifecycle check -/

/-- The command does not answer `WrongState`. -/
def NotWrongState (k : Result) : Prop :=
  ∀ t r, k = .next t → t.response = some r → r.status ≠ 0x03#8

namespace NotWrongState

theorem respond (ra rb : Word) (s : State) : NotWrongState (respond ra rb s) := by
  intro t r h hr
  cases h
  cases hr
  exact (by decide : (0x00#8 : BitVec 8) ≠ 0x03#8)

theorem raise {e : Err} (he : e.code ≠ 0x03#8) (s : State) : NotWrongState (raise e s) := by
  intro t r h hr
  cases h
  cases hr
  exact he

theorem thenRespond (ra rb : Word) (k : Result) : NotWrongState (thenRespond ra rb k) := by
  cases k with
  | next s => exact .respond ra rb s
  | fault f => exact nofun
  | refused r => exact nofun

theorem ite {p : Prop} [Decidable p] {k l : Result} (hk : NotWrongState k) (hl : NotWrongState l) :
    NotWrongState (if p then k else l) := by
  split
  · exact hk
  · exact hl

end NotWrongState

/-- A datapath command (R203) checks first that the state is `RUNNING`, and answers `WrongState` nowhere
else. -/
theorem exec_of_isDatapath {i : Instr} (hi : isDatapath i = true) (s : State) :
    ∃ k, exec i s = whenRunning s k ∧ NotWrongState k := by
  cases i with
  | nop | reset | setcfg | config | get => cases hi
  | process n => exact ⟨_, rfl, .ite (.raise (by decide) s) (.thenRespond _ _ _)⟩
  | _ => exact ⟨_, rfl, .respond _ _ _⟩

/-- `CONFIG` and the legal `SETCFG`, the commands admitted in `UNCONFIGURED` only (R179). -/
def IsConfiguration (i : Instr) : Prop := i = .config ∨ ∃ f, i = .setcfg f ∧ f.isField = true

/-- A configuration command checks first that the state is `UNCONFIGURED`, and answers `WrongState` nowhere
else. -/
theorem exec_of_isConfiguration {i : Instr} (hi : IsConfiguration i) (s : State) :
    ∃ k, exec i s = whenUnconfigured s k ∧ NotWrongState k := by
  obtain rfl | ⟨f, rfl, hf⟩ := hi
  · exact ⟨_, rfl, .ite (.respond _ _ _) (.raise (by decide) s)⟩
  · exact ⟨_, exec_setcfg_of_field hf s, .respond _ _ _⟩

/-- Any other command makes no lifecycle check. -/
theorem exec_notWrongState_of_other {i : Instr} (hd : isDatapath i = false) (hc : ¬IsConfiguration i)
    (s : State) : NotWrongState (exec i s) := by
  cases i with
  | nop | reset | get => exact .respond _ _ _
  | setcfg f =>
    rw [exec_setcfg_of_not_field fun hf => hc (.inr ⟨f, rfl, hf⟩)]
    exact .raise (by decide) s
  | config => exact absurd (.inl rfl) hc
  | _ => cases hd

/-- A command that its lifecycle state admits does not answer `WrongState`. -/
theorem exec_notWrongState {i : Instr} {s : State} (hd : ¬(s.running = false ∧ isDatapath i = true))
    (hc : ¬(s.running = true ∧ IsConfiguration i)) : NotWrongState (exec i s) := by
  by_cases hdata : isDatapath i = true
  · obtain ⟨k, hexec, hk⟩ := exec_of_isDatapath hdata s
    have hrun : s.running = true := Bool.eq_true_of_not_eq_false fun h => hd ⟨h, hdata⟩
    rwa [hexec, whenRunning_of hrun]
  by_cases hconf : IsConfiguration i
  · obtain ⟨k, hexec, hk⟩ := exec_of_isConfiguration hconf s
    have hrun : s.running = false := Bool.eq_false_iff.2 fun h => hc ⟨h, hconf⟩
    rwa [hexec, whenUnconfigured_of hrun]
  exact exec_notWrongState_of_other (Bool.eq_false_iff.2 hdata) hconf s

end Sys2Proof.Machine
end

section
/-! Independent cores (R182): a step of one core rewrites its own entry of the list. -/

namespace Sys2Proof.Machine

/-- A core with the machine's parameters steps as the machine does. -/
theorem stepWith_params (s : State) : stepWith Config.params s = step s := by
  simp only [stepWith, execWith_params]
  rfl

/-- What becomes of a core whose parameters are `P` when it is its turn: it steps, or stays stopped. -/
def advance (P : Params) : Result → Result
  | .next s => stepWith P s
  | .fault f => .fault f
  | .refused r => .refused r

theorem stepCore_eq_modify (P : Nat → Params) (k : Nat) (cores : List Result) :
    stepCore P k cores = cores.modify k (advance (P k)) := by
  rw [List.modify_eq_set_getElem?]
  cases hk : cores[k]? with
  | none => exact stepCore_of_not (by simp [hk])
  | some core =>
    obtain ⟨hlt, hget⟩ := List.getElem?_eq_some_iff.1 hk
    have hset : cores.set k core = cores := hget ▸ List.set_getElem_self hlt
    cases core with
    | next s => exact stepCore_of hk
    | fault f => exact (stepCore_of_not (by simp [hk])).trans hset.symm
    | refused r => exact (stepCore_of_not (by simp [hk])).trans hset.symm

end Sys2Proof.Machine
end

section
/-! The statements about errors, the lifecycle, an idle core and several cores (R170 to R184). -/

namespace Sys2Proof.Proofs.Exceptions

open Sys2Proof.Machine

/-- Settles O10: an error is one of the four. -/
theorem commandsSucceedOrRaiseOnePreciseError : Obligations.CommandsSucceedOrRaiseOnePreciseError := by
  intro i s t h
  obtain ⟨ra, rb, u, -, rfl⟩ | ⟨-, e, rfl⟩ := exec_next h
  · exact .inl ⟨ra, rb, rfl⟩
  · exact .inr ⟨_, e.flag_code_mem, rfl⟩

/-- Settles O11: each command's lifecycle check, if it has one, is its first check and its only source of
`WrongState`. -/
theorem lifecycleStateAdmitsCommands : Obligations.LifecycleStateAdmitsCommands := by
  refine fun i s => ⟨fun hrun hi => ?_, fun hrun hi => ?_, exec_notWrongState⟩
  · obtain ⟨k, hexec, -⟩ := exec_of_isDatapath hi s
    exact hexec.trans (whenRunning_not hrun k)
  · obtain ⟨k, hexec, -⟩ := exec_of_isConfiguration hi s
    exact hexec.trans (whenUnconfigured_not hrun k)

/-- Settles O53: a step of core `j` modifies entry `j` of the list and no other. -/
theorem coresAreIndependent : Obligations.CoresAreIndependent := by
  refine ⟨stepWith_params, fun P j cores => ⟨fun s hs => ?_, fun k hjk => ⟨?_, ?_⟩⟩⟩
  · rw [stepCore_eq_modify, List.getElem?_modify_eq, hs]
    rfl
  · rw [stepCore_eq_modify, List.getElem?_modify_ne _ _ hjk]
  · simp only [stepCore_eq_modify]
    exact List.modify_modify_ne _ _ _ hjk

/-- Settles O7. -/
theorem idleCoreKeepsItsState : Obligations.IdleCoreKeepsItsState := fun _ => step_of_idle

end Sys2Proof.Proofs.Exceptions
end

section
/-! A phase far from zero absorbs a small addend (R210): the spacing of the data grows with the magnitude, and a
sum nearer to a datum than half the spacing on either side of it rounds back to that datum. -/

namespace Sys2Proof.Machine.F32

/-- The spacing above a magnitude is the unit of its binade. -/
theorem magUnits_succ (m : Nat) : magUnits (m + 1) = magUnits m + 2 ^ (m / 2 ^ 23 - 1) := by
  obtain ⟨shift, sig, rfl, hshift, hsig, hn⟩ : ∃ shift sig, m = shift * 2 ^ 23 + sig ∧
      shift = m / 2 ^ 23 - 1 ∧ sig < 2 ^ 24 ∧ (shift = 0 ∨ 2 ^ 23 ≤ sig) :=
    ⟨m / 2 ^ 23 - 1, m - (m / 2 ^ 23 - 1) * 2 ^ 23, by omega, rfl, by omega, by omega⟩
  rw [← hshift, add_assoc, magUnits_shift_add hn hsig.le, magUnits_shift_add (by omega) (by omega)]
  ring

/-- The spacing grows with the magnitude. -/
theorem magUnits_add_spacing_le {lo m : Nat} (h : lo ≤ m) :
    magUnits m + 2 ^ (lo / 2 ^ 23 - 1) ≤ magUnits (m + 1) := by
  rw [magUnits_succ]
  exact Nat.add_le_add_left (Nat.pow_le_pow_right (by decide) (by omega)) _

/-- A whole number of units between the middles on either side of a finite magnitude is rounded to it. -/
theorem roundRatio_eq_of_between_middles {m t : Nat} (hfin : m + 1 < infMag)
    (hlow : magUnits m + magUnits (m + 1) < 2 * t) (hhigh : 2 * t < magUnits (m + 1) + magUnits (m + 1 + 1)) :
    roundRatio t 1 = m + 1 := by
  have hstep := magUnits_lt_succ m
  have hstep' := magUnits_lt_succ (m + 1)
  have hle := magUnits_floorMag_le t 1
  have hlt := lt_magUnits_floorMag_succ t one_pos
  rw [mul_one] at hle hlt
  have habove : m < floorMag t 1 + 1 := magUnits_strictMono.lt_iff_lt.1 (by omega)
  have hbelow : floorMag t 1 < m + 1 + 1 := magUnits_strictMono.lt_iff_lt.1 (by omega)
  have hround : RoundsUp t 1 ↔ floorMag t 1 = m := by
    rw [RoundsUp, mul_one]
    obtain hfloor | hfloor : floorMag t 1 = m ∨ floorMag t 1 = m + 1 := by omega
    · rw [hfloor]
      omega
    · rw [hfloor]
      omega
  rcases roundRatio_eq t 1 with ⟨hup, hr⟩ | ⟨hdown, hr⟩
  · rw [hr, hround.1 hup, min_eq_left hfin.le]
  · rw [hround] at hdown
    rw [hr, show floorMag t 1 = m + 1 by omega, min_eq_left hfin.le]

/-- An addend of less than half the spacing at `lo` does not move a finite datum beyond `lo`. -/
theorem add_eq_left_of_small (nan : Word) {lo : Nat} {p x : Word} (hp : isFinite p = true)
    (hx : isFinite x = true) (hlo : lo < magField p) (hsmall : 2 * units x < 2 ^ (lo / 2 ^ 23 - 1)) :
    add nan p x = p := by
  obtain ⟨m, hm⟩ : ∃ m, magField p = m + 1 := Nat.exists_eq_succ_of_ne_zero (by omega)
  have hfin : m + 1 < infMag := hm ▸ (isFinite_iff p).1 hp
  have hbelow := magUnits_add_spacing_le (lo := lo) (m := m) (by omega)
  have habove := magUnits_add_spacing_le (lo := lo) (m := m + 1) (by omega)
  have hround {t : Nat} (h : magUnits (m + 1) ≤ t + units x ∧ t ≤ magUnits (m + 1) + units x) :
      roundRatio t 1 = magField p := by
    rw [hm]
    exact roundRatio_eq_of_between_middles hfin (by omega) (by omega)
  have hpv := value_eq p
  have hxv : value x = units x ∨ value x = -units x := by
    rw [value]
    split <;> simp
  rw [units_eq_magUnits, hm] at hpv
  rw [add_of_isFinite nan hp hx]
  cases hs : sign p with
  | false =>
    rw [hs, signFactor, if_neg Bool.false_ne_true, one_mul] at hpv
    rw [if_neg (by omega), decide_eq_false (by omega), hround (by omega), ← hs, ← eq_pack]
  | true =>
    rw [hs, signFactor, if_pos rfl, neg_one_mul] at hpv
    rw [if_neg (by omega), decide_eq_true (by omega), hround (by omega), ← hs, ← eq_pack]

end Sys2Proof.Machine.F32
end

section
/-! A NaN goes through every operation (R6), so a NaN lane of the accumulator is a NaN after every command that
computes it anew (R209), and a NaN sample reaches both lanes (R177). -/

namespace Sys2Proof.Machine

/-- A NaN operand gives a NaN. -/
theorem NumberFromNumbers.isNaN {op : Nat → Word → Word → Word} (hop : NumberFromNumbers op) {d : Nat}
    {a b : Word} (h : F32.isNaN a = true ∨ F32.isNaN b = true) : F32.isNaN (op d a b) = true := by
  by_contra hnumber
  obtain ⟨ha, hb, -⟩ := hop d a b (Bool.eq_false_iff.2 hnumber)
  rw [ha, hb] at h
  exact h.elim Bool.false_ne_true Bool.false_ne_true

section b32

variable {P : Params} {d : Nat} {a b : Word} (h : F32.isNaN a = true ∨ F32.isNaN b = true)
include h

theorem isNaN_fadd : F32.isNaN ((b32 P).fadd d a b) = true := (fadd_numberFromNumbers P).isNaN h
theorem isNaN_fsub : F32.isNaN ((b32 P).fsub d a b) = true := (fsub_numberFromNumbers P).isNaN h
theorem isNaN_fmul : F32.isNaN ((b32 P).fmul d a b) = true := (fmul_numberFromNumbers P).isNaN h

end b32

/-! ### A lane of the accumulator -/

/-- A lane that holds a NaN in `g` holds one in `g'`. -/
structure KeepsNaNs (g g' : Regs Word) : Prop where
  re : F32.isNaN g.accRe = true → F32.isNaN g'.accRe = true
  im : F32.isNaN g.accIm = true → F32.isNaN g'.accIm = true

namespace KeepsNaNs

variable {g g' g'' : Regs Word}

theorem trans (h : KeepsNaNs g g') (h' : KeepsNaNs g' g'') : KeepsNaNs g g'' := ⟨h'.re ∘ h.re, h'.im ∘ h.im⟩

theorem of_eq (hre : g'.accRe = g.accRe) (him : g'.accIm = g.accIm) : KeepsNaNs g g' := by
  refine ⟨fun h => ?_, fun h => ?_⟩
  · rwa [hre]
  · rwa [him]

variable (P : Params) (d : Nat) (g) (x : Cpx Word)

/-- Each lane of the recurrence (R110) has that lane of the accumulator as a factor of its right term. -/
theorem setAcc_filterOut : KeepsNaNs g (g.setAcc (filterOut (b32 P) d g x)) :=
  ⟨fun h => isNaN_fadd (.inr (isNaN_fmul (.inr h))), fun h => isNaN_fadd (.inr (isNaN_fmul (.inr h)))⟩

/-- Stage 4 is the only one that writes the accumulator (R130). -/
theorem pipe : KeepsNaNs g (pipe (b32 P) d g x).1 := by
  obtain ⟨hre, him⟩ := setAcc_filterOut (stepPhase (b32 P) d g) P (d + 7) (Machine.pipe (b32 P) d g x).2
  exact ⟨hre, him⟩

end KeepsNaNs

theorem Effect.keepsNaNs {i : Instr} {s u : State} (h : Effect i s u) (hreset : i ≠ .reset)
    (hconfig : i ≠ .config) : KeepsNaNs s.regs u.regs := by
  cases h with
  | reset | config => contradiction
  | setcfg =>
    exact .of_eq (read_setField (r := .accRe) _ _ _ _ rfl) (read_setField (r := .accIm) _ _ _ _ rfl)
  | filter => exact .setAcc_filterOut ..
  | sample => exact .pipe ..
  | process _ _ hloop =>
    exact processLoop_keeps (Q := fun v => KeepsNaNs s.regs v.regs)
      (fun v _ x _ _ hv => hv.trans (.pipe v.regs Config.params v.draws x)) le_rfl le_rfl (.of_eq rfl rfl)
      hloop
  | _ => exact .of_eq rfl rfl

/-! ### A sample -/

/-- Both parts are NaNs. -/
def BothNaN (x : Cpx Word) : Prop := F32.isNaN x.re = true ∧ F32.isNaN x.im = true

variable {P : Params} {d : Nat} {x y : Cpx Word} {r : Regs Word}

/-- Each part of the product has both parts of the first factor in it. -/
theorem bothNaN_cmul (h : F32.isNaN x.re = true ∨ F32.isNaN x.im = true) :
    BothNaN ((b32 P).cmul d x y) :=
  ⟨isNaN_fsub (h.imp (fun hre => isNaN_fmul (.inl hre)) fun him => isNaN_fmul (.inl him)),
    isNaN_fadd (h.imp (fun hre => isNaN_fmul (.inl hre)) fun him => isNaN_fmul (.inl him))⟩

theorem bothNaN_filterOut (h : BothNaN x) : BothNaN (filterOut (b32 P) d r x) :=
  ⟨isNaN_fadd (.inl (isNaN_fmul (.inr h.1))), isNaN_fadd (.inl (isNaN_fmul (.inr h.2)))⟩

theorem bothNaN_pipe (h : F32.isNaN x.re = true ∨ F32.isNaN x.im = true) :
    BothNaN (pipe (b32 P) d r x).2 ∧ BothNaN (pipe (b32 P) d r x).1.acc := by
  have hout : BothNaN (pipe (b32 P) d r x).2 := bothNaN_cmul h
  exact ⟨hout, by rw [pipe_acc]; exact bothNaN_filterOut hout⟩

end Sys2Proof.Machine
end

section
/-! What a command leaves of the buffers, the host's list and the operand ports (R132, R151, R215), and the
values that hardware reset leaves (R200). -/

namespace Sys2Proof.Machine

/-! ### Buffers -/

/-- How many bytes of `OBUF`, from its beginning, a command may write (R132). -/
def obufBytes : Instr → Nat
  | .process n => 8 * n.toNat
  | _ => 0

theorem obufBytes_of_ne_process {i : Instr} (hi : ∀ n, i ≠ .process n) : obufBytes i = 0 := by
  cases i with
  | process n => exact absurd rfl (hi n)
  | _ => rfl

/-- `t` has what the host put into `s`, and the bytes of `OBUF` from an offset on. -/
structure SameBuffersFrom (lo : Nat) (s t : State) : Prop where
  host : t.host = s.host
  operands : t.operands = s.operands
  ibuf : t.ibuf = s.ibuf
  obuf : ∀ a, lo ≤ a → t.obuf.getByte a = s.obuf.getByte a

theorem SameBuffersFrom.processOne {lo k : Nat} {s v : State} (h : SameBuffersFrom lo s v)
    (hk : 8 * k + 8 ≤ lo) (N : Numerics Word) (x : Cpx Word) : SameBuffersFrom lo s (processOne N v k x) where
  host := h.host
  operands := h.operands
  ibuf := h.ibuf
  obuf a ha := (Memory.getByte_writeSample_outside _ (.inr (hk.trans ha))).trans (h.obuf a ha)

theorem Effect.sameBuffersFrom {i : Instr} {s u : State} (h : Effect i s u) :
    SameBuffersFrom (obufBytes i) s u := by
  cases h with
  | @process _ _ n _ _ hloop =>
    exact processLoop_keeps (Q := SameBuffersFrom (8 * n.toNat) s) (hi := n.toNat)
      (fun v k x _ hk hv => hv.processOne (by omega) hw x) le_rfl (Nat.zero_add _).le
      ⟨rfl, rfl, rfl, fun _ _ => rfl⟩ hloop
  | _ => exact ⟨rfl, rfl, rfl, fun _ _ => rfl⟩

/-! ### Hardware reset -/

/-- The values of R200 (R34): every register, no response pending, no buffer word holding a value. -/
def HasResetValues (t : State) : Prop :=
  t.regs = ⟨0#32, 0#32, 0#32, 0#32, 0#32, 0x3951B717#32, 0x322BCC76#32, 0x36A7C5AC#32⟩ ∧
  readReg t .limit = 0x3FC90FDB#32 ∧ readReg t .status = 0#32 ∧ t.running = false ∧ t.response = none ∧
  ∀ i, t.ibuf.readWord i = none ∧ t.obuf.readWord i = none

theorem hasResetValues_reset : HasResetValues State.reset :=
  ⟨rfl, rfl, by decide, by decide, rfl, fun _ => ⟨rfl, rfl⟩⟩

theorem hasResetValues_hardReset (s : State) : HasResetValues (hardReset s) := hasResetValues_reset

end Sys2Proof.Machine
end

section
/-! The statements about reset and hazards (R200 to R215). -/

namespace Sys2Proof.Proofs.ResetAndHazards

open Sys2Proof.Machine

/-- Settles O27: the largest correction is less than half the spacing at 8192, and more than half the spacing
below it. -/
theorem correctionsVanishBeyond8192 : Obligations.CorrectionsVanishBeyond8192 := by
  refine ⟨fun d p x hp hlo hx => ?_, fun d => fadd_eq_of (by decide) (by decide)⟩
  have hunits : F32.units x ≤ F32.magUnits 0x39A4B5BE := by
    rw [F32.units_eq_magUnits]
    exact F32.magUnits_strictMono.monotone hx
  have hhalf : 2 * F32.magUnits 0x39A4B5BE < 2 ^ (0x46000000 / 2 ^ 23 - 1) := by decide
  have hxfin : F32.isFinite x = true := (F32.isFinite_iff x).2 (hx.trans_lt (by decide))
  exact F32.add_eq_left_of_small _ hp hxfin hlo (by omega)

/-- Settles O47: an answer has its command's effect, which the batch loop confines to its own samples; an error
touches no buffer. -/
theorem buffersChangeOnlyByProcess : Obligations.BuffersChangeOnlyByProcess := by
  intro i s t hexec
  obtain ⟨ra, rb, u, hu, rfl⟩ | ⟨-, e, rfl⟩ := exec_next hexec
  · obtain ⟨hhost, hoperands, hibuf, hobuf⟩ := hu.sameBuffersFrom
    refine ⟨hhost, hoperands, fun a => congrArg (Memory.getByte · a) hibuf, fun hi a => ?_, ?_, ?_⟩
    · exact hobuf a (by rw [obufBytes_of_ne_process hi]; exact Nat.zero_le a)
    · rintro n rfl
      exact hobuf
    · rintro r hr hfailed
      cases hr
      exact absurd rfl hfailed
  · exact ⟨rfl, rfl, fun _ => rfl, fun _ _ => rfl, fun _ _ _ _ => rfl, fun _ _ _ _ => rfl⟩

/-- Settles O51: a command that computes a lane anew has the old one as an operand. -/
theorem naNAccumulatorNeverRecovers : Obligations.NaNAccumulatorNeverRecovers := by
  intro i s t hreset hconfig hexec
  obtain ⟨ra, rb, u, hu, rfl⟩ | ⟨-, e, rfl⟩ := exec_next hexec
  · obtain ⟨hre, him⟩ := hu.keepsNaNs hreset hconfig
    exact ⟨hre, him⟩
  · exact ⟨id, id⟩

/-- Settles O52: either part of the sample is an operand of both parts of the rotated one. -/
theorem naNSamplePoisonsTheAccumulator : Obligations.NaNSamplePoisonsTheAccumulator := by
  intro s hrun hnan
  obtain ⟨⟨hre, him⟩, haccRe, haccIm⟩ := bothNaN_pipe (P := Config.params) (d := s.draws) (r := s.regs)
    (x := opAB s) hnan
  exact ⟨_, _, _, sampleCmd_of_running hrun, rfl, hre, him, haccRe, haccIm⟩

/-- Settles O9: hardware reset and the initial state agree but for the host's list and the draws. -/
theorem hardwareResetLeavesTheResetValues : Obligations.HardwareResetLeavesTheResetValues := by
  refine ⟨fun s rest hhost => ⟨_, step_of_hardReset hhost, ?_⟩, hasResetValues_reset⟩
  obtain ⟨hregs, hlimit, hstatus, hrunning, hresponse, hwords⟩ := hasResetValues_hardReset (s.setHost rest)
  exact ⟨hregs, hlimit, hstatus, hrunning, hresponse, hwords, rfl⟩

end Sys2Proof.Proofs.ResetAndHazards
end
